-- ==== Sys2Proof/Word.lean ====
section
/-! DEFINITION. The word types of the BZ48 (00_scope.md, Conventions). -/

namespace Sys2Proof

/-- One byte of memory. -/
abbrev Byte := BitVec 8

/-- A word is 4 bytes (00_scope.md, Memory quantities). -/
abbrev Word := BitVec 32

/-- A tick count or a mark's value: 32 bits, wrapping (R157). -/
abbrev Tick := BitVec 32

/-- A 16-byte block of the block transform; byte i is bits 8i to 8i+7 (R26). -/
abbrev Block := BitVec 128

/-- A 32-byte key; byte i is bits 8i to 8i+7 (R26). -/
abbrev Key := BitVec 256

/-- One of the four link contexts (00_scope.md). -/
abbrev Ctx := Fin 4

/-- An index of the window table (R1). -/
abbrev WindowIndex := Fin 8

/-- A key slot number; slot 0 is the null slot (R78). -/
abbrev SlotId := Fin 16

end Sys2Proof
end

