-- ==== Sys2Proof/Syntax.lean ====
section
/-! DEFINITION. The commands of the block: one constructor for each row of spec/opcode_table.json. -/

namespace Sys2Proof

/-- What an access asks of memory: a read of `count` bytes, or a write of one
entry for each byte, `some b` where the byte-enable is set and `none` where it
is clear (00_scope.md, Upstream requests). -/
inductive Access where
  | read (count : Nat)
  | write (bytes : List (Option Byte))
  deriving DecidableEq, Repr

/-- An upstream request: the upstream offset of its first byte, which gives the
alias, and what it asks (R41). No rule depends on the master that issued it. -/
structure Request where
  offset : Nat
  access : Access
  deriving DecidableEq, Repr

/-- What one test-port programming instruction sets from zero to one (R184). -/
inductive FuseProgram where
  | storeId (bits : Word)
  | wrapKey (bits : Key)
  | lockBit
  deriving DecidableEq, Repr

/-- The steps of opcode_table.json. An `error` operand says that the downstream
access whose completion the step is ended in a downstream error (R50, R54); an
`ends` operand says the same of each access still running at a reset, oldest
first (R56). -/
inductive Instr where
  | powerOn
  | resetLineAsserted (ends : List Bool)
  | resetLineReleased
  | boundaryScanSelected (ends : List Bool)
  | fuseProgramming (program : FuseProgram)
  | rootFuseStoreRead
  | startUpResultWriteDone (error : Bool)
  | upstreamRequest (request : Request)
  | controlWindowWrite (offset : Nat) (bytes : List (Option Byte))
  | heartbeat
  | receipt
  | commandTaken (code : Byte) (ticket : BitVec 24)
  | defineWindow
  | clearWindow
  | setContext
  | setGrouping
  | setNotice
  | setHeartbeat
  | sealParcel
  | release
  | activateNow
  | retire
  | purge (ticket : BitVec 24)
  | snapshot
  | restart (ticket : BitVec 24)
  | restartReset
  | argumentReadFailed
  | resultWriteDone (error : Bool)
  | snapshotWriteDone (error : Bool)
  | passingPieceDone (error : Bool)
  | downstreamGrant
  | sealReadbackDone (error : Bool)
  | headLineWriteDone (error : Bool)
  | checkHeadLineRead (error : Bool)
  | checkPayloadRead (error : Bool)
  | renewalHeadLineRead (error : Bool)
  | renewalPayloadRead (error : Bool)
  | importReadDone (error : Bool)
  | postWriteIssue
  | postWriteDone (error : Bool)
  | countersWriteDone (error : Bool)
  | noticeImageWriteDone (error : Bool)
  | tick
  | activationMarkReached (slot : SlotId)
  | expiryMarkReached (slot : SlotId)
  | renewalDueMarkReached (slot : SlotId)
  | drainDeadlineReached (slot : SlotId)
  | gatherMarkReached
  | retryMarkReached
  | heartbeatMarkReached
  | linkSilenceMarkReached (context : Ctx)
  deriving DecidableEq, Repr

/-- How many bytes an access names. -/
def Access.count : Access → Nat
  | .read n => n
  | .write bytes => bytes.length

/-- Is the access a write? -/
def Access.isWrite : Access → Bool
  | .read _ => false
  | .write _ => true

end Sys2Proof
end

