-- ==== Sys2Proof/Decode.lean ====
section
/-! DEFINITION. The decoder of table words: no row of spec/opcode_table.json gives bits (log 31). -/

namespace Sys2Proof

/-- The command a word spells by the table's bits: none, since no row of the
table has bits (its "fields" are empty). -/
def decodeTableWord (_nbits _w : Nat) : Option Instr :=
  none

end Sys2Proof
end

