-- ==== Sys2Proof/Config.lean ====
section
/-! DEFINITION. What the manual leaves open, as constants nothing can evaluate. -/

namespace Sys2Proof

/-- The block transform: for every key a permutation of the blocks, so
E(K, B) is `blockTransform K B` and D(K, B) its inverse. The inside of the
transform is not specified (R26; log 1). -/
opaque Config.blockTransform : Key → Equiv.Perm Block

/-- The byte a failed write leaves at an address it named: what the memory
controller left there (R50). A free value for each failed write, numbered in
order, and each address (log 3). -/
opaque Config.failedWriteByte : Nat → Nat → Byte

end Sys2Proof
end

