-- ==== Sys2Proof/Machine/State.lean ====
section
/-! DEFINITION. The state of the BZ48, block by block (00_scope.md, Block overview), and its value after reset. -/

namespace Sys2Proof.Machine

/-- Link buffer memory: (address, byte) pairs, addresses strictly rising and
below 2^24, no byte equal to what an unlisted address reads as (log 2). -/
abbrev Memory := List Host.Cell

/-! ### Parcel table and window table (chapter 1) -/

/-- Window direction (R1). -/
inductive Direction where
  | outbound
  | inbound
  deriving DecidableEq, Repr

/-- Window role (R1). -/
inductive Role where
  | data
  | notice
  | renewal
  deriving DecidableEq, Repr

/-- The states of a parcel record (section 1.2). -/
inductive ParcelState where
  | free
  | filling
  | sealing
  | sealed
  | arriving
  | checking
  | admitted
  | rejected
  deriving DecidableEq, Repr

/-- Who opened an outbound parcel (R6). -/
inductive Owner where
  | controller
  | composer
  deriving DecidableEq, Repr

/-- A parcel record (R6). -/
structure ParcelRecord where
  state : ParcelState
  slot : Option SlotId
  sequence : Option Nat
  length : Option Nat
  deferred : Bool
  releasePending : Bool
  owner : Option Owner
  deriving DecidableEq, Repr

/-- A record as FREE leaves it: optional fields absent, both marks clear (R4, R19). -/
def ParcelRecord.blank : ParcelRecord :=
  { state := .free, slot := none, sequence := none, length := none,
    deferred := false, releasePending := false, owner := none }

/-- A valid window table entry with its parcel records (R1, R4). -/
structure Window where
  base : Nat
  count : Nat
  direction : Direction
  role : Role
  context : Ctx
  parcels : List ParcelRecord
  deriving DecidableEq, Repr

/-! ### Memory path (chapter 3) -/

/-- One line piece placed in the passing stream: its place in the sequence of
pieces placed, its downstream address, what it asks, and the keystream its
returned bytes are XORed with, empty where no cipher applies (R45, R49). -/
structure Piece where
  serial : Nat
  address : Nat
  access : Access
  keystream : List Byte
  deriving DecidableEq, Repr

/-- What became of one piece of a taken request (R48, R50). -/
inductive Part where
  | waiting
  | served (data : List Byte)
  | notServed (count : Nat)
  deriving DecidableEq, Repr

/-- A request taken and not yet answered, with its pieces in address order (R48). -/
structure Taken where
  request : Request
  parts : List Part
  deriving DecidableEq, Repr

/-- The one response of an upstream request (R48). -/
structure Response where
  request : Request
  ok : Bool
  data : List Byte
  deriving DecidableEq, Repr

/-- Which block issued an internal request, and for what (R51). -/
inductive Purpose where
  | startUpResult
  | argument
  | result
  | snapshotEntry
  | snapshotHeader
  | sealRead
  | headWrite
  | checkHead
  | checkPayload
  | renewalHead
  | renewalPayload
  | importRead
  | post
  | counters
  | noticeImage
  deriving DecidableEq, Repr

/-- An internal request. `ignored` is set once its issuer has discarded the work
it belonged to (R54); `orderPoint` counts the passing pieces placed before the
event that called for a read (R52). -/
structure InternalRequest where
  purpose : Purpose
  ignored : Bool
  address : Nat
  access : Access
  orderPoint : Nat
  deriving DecidableEq, Repr

/-- A downstream access granted and not yet completed (R49, R53). -/
inductive Flight where
  | passing (piece : Piece)
  | internal (request : InternalRequest)
  deriving DecidableEq, Repr

/-- Whose turn it is at the arbiter (R53). -/
inductive Side where
  | passing
  | internal
  deriving DecidableEq, Repr

/-- The memory path's state besides the window table. `port` holds requests not
yet taken; `passing` and `internal` the parts of the two streams not yet
granted, `flight` the granted parts of both in grant order; `unissued` the
requests whose block waits for room in the internal stream (R51, log 11). -/
structure MemoryPath where
  hold : Bool
  startUpResultDone : Bool
  port : List Request
  outstanding : List Taken
  passing : List Piece
  internal : List InternalRequest
  unissued : List InternalRequest
  flight : List Flight
  turn : Side
  nextSerial : Nat
  deriving DecidableEq, Repr

/-! ### Tag engine (chapter 4) -/

/-- The kinds of tag job (R58). -/
inductive JobKind where
  | sealData
  | sealNotice
  | check
  | checkRenewal
  deriving DecidableEq, Repr

/-- A tag job: the parcel, the kind and the order point of its creation (R58, R59). -/
structure Job where
  window : WindowIndex
  parcel : Nat
  kind : JobKind
  orderPoint : Nat
  deriving DecidableEq, Repr

/-- The fields a check takes from a head line, as carried (R66, R181). -/
structure HeadLine where
  context : Nat
  kind : Nat
  generation : Nat
  sequence : Nat
  station : Nat
  length : Nat
  tag : Nat
  deriving DecidableEq, Repr

/-- The running job: what its reads have returned so far and how many payload
lines are still to return (R63, R66, R69). -/
structure Running where
  job : Job
  head : Option HeadLine
  payload : List Byte
  linesLeft : Nat
  deriving DecidableEq, Repr

/-- The composer's seal that waits for room in the queue (R58, R59). -/
structure WaitingSeal where
  window : WindowIndex
  parcel : Nat
  length : Nat
  deriving DecidableEq, Repr

/-- The tag engine's state (R58). -/
structure TagEngine where
  queue : List Job
  running : Option Running
  deferred : List (WindowIndex × Nat)
  waitingSeal : Option WaitingSeal
  deriving DecidableEq, Repr

/-! ### Key table (chapter 5) -/

/-- The states of a key slot (R79). -/
inductive SlotState where
  | empty
  | staged
  | active
  | draining
  | retiring
  deriving DecidableEq, Repr

/-- Activation modes (R106). -/
inductive ActivationMode where
  | atOnce
  | atMark
  | onPeerUse
  | withGroup
  deriving DecidableEq, Repr

/-- A key slot (R79). `activated` says that the expiry and renewal-due marks have been
given their values (R89), so that they are watched until they are reached or the slot
becomes EMPTY (R158, log 38). `admitted` is the admitted set of the acceptance record. -/
structure KeySlot where
  state : SlotState
  context : Ctx
  generation : Nat
  trafficKey : Key
  hashKey : Nat
  checkValue : Nat
  mode : ActivationMode
  activationMark : Tick
  activationLatch : Bool
  budget : Nat
  usage : Nat
  nextSequence : Nat
  lifetime : Nat
  activated : Bool
  expiryMark : Tick
  expiryLatch : Bool
  renewalDueMark : Tick
  renewalDueLatch : Bool
  renewalDueRaised : Bool
  budgetExhaustedRaised : Bool
  drainDeadline : Tick
  drainLatch : Bool
  references : Nat
  highMark : Nat
  admitted : List Nat
  deriving DecidableEq, Repr

/-- An EMPTY slot: every field zero (R78, R86). -/
def KeySlot.blank : KeySlot :=
  { state := .empty, context := 0, generation := 0, trafficKey := 0, hashKey := 0,
    checkValue := 0, mode := .atOnce, activationMark := 0, activationLatch := false,
    budget := 0, usage := 0, nextSequence := 0, lifetime := 0, activated := false,
    expiryMark := 0, expiryLatch := false, renewalDueMark := 0, renewalDueLatch := false,
    renewalDueRaised := false, budgetExhaustedRaised := false, drainDeadline := 0,
    drainLatch := false, references := 0, highMark := 0, admitted := [] }

/-- The settings of a context (R82). -/
structure Settings where
  drainPeriod : Nat
  reserveParcels : Nat
  reserveTicks : Nat
  holdLow : Nat
  holdHigh : Nat
  linkSilence : Nat
  fallback : Option Ctx
  deriving DecidableEq, Repr

/-- The defaults every reset gives (R82). -/
def Settings.default : Settings :=
  { drainPeriod := 3000, reserveParcels := 1024, reserveTicks := 360000, holdLow := 64,
    holdHigh := 256, linkSilence := 0, fallback := none }

/-- What the key table holds of one context: settings, generation floor (R83)
and the level of its HOLD line, true when asserted (R99). -/
structure ContextRow where
  settings : Settings
  floor : Nat
  holdLine : Bool
  deriving DecidableEq, Repr

/-- The grouping setting (R84). -/
inductive Grouping where
  | solo
  | pairs
  | all
  deriving DecidableEq, Repr

/-- The key table's state (section 5.1). -/
structure KeyTable where
  slots : Vector KeySlot 16
  contexts : Vector ContextRow 4
  grouping : Grouping
  deriving DecidableEq, Repr

/-! ### Renewal unit and root fuse store (chapter 6, R184) -/

/-- The root fuse store: no reset changes it (R103, R184). -/
structure FuseStore where
  storeId : Word
  wrapKey : Key
  lock : Bool
  deriving DecidableEq, Repr

/-- An ADMITTED renewal parcel in the import list, with what the CHECK_RENEWAL
job reported of its head line (R107, R108). -/
structure ImportEntry where
  window : WindowIndex
  parcel : Nat
  context : Nat
  generation : Nat
  sequence : Nat
  deriving DecidableEq, Repr

/-- The import in progress, of the head of the import list: the bytes its reads
have returned and how many reads are still to return (R108). -/
structure ImportRun where
  data : List Byte
  readsLeft : Nat
  deriving DecidableEq, Repr

/-- The renewal unit's state (chapter 6). -/
structure RenewalUnit where
  storeId : Nat
  wrapKey : Key
  provisioned : Bool
  fuseReadDone : Bool
  importList : List ImportEntry
  importing : Option ImportRun
  deriving DecidableEq, Repr

/-! ### Timebase (chapter 9) -/

/-- A mark that may have no value, with its latch (R142, R160, R163). -/
structure Mark where
  value : Option Tick
  latch : Bool
  deriving DecidableEq, Repr

/-- A mark with no value and its latch clear. -/
def Mark.absent : Mark :=
  { value := none, latch := false }

/-- A watch: the heartbeat watch (R160) or a link-silence watch (R163). -/
structure Watch where
  period : Nat
  mark : Mark
  silent : Bool
  deriving DecidableEq, Repr

/-- A watch after reset: off, no mark, not silent. -/
def Watch.off : Watch :=
  { period := 0, mark := Mark.absent, silent := false }

/-- The timebase's state (chapter 9); the watched marks are computed from the
marks' owners. -/
structure Timebase where
  tick : Tick
  heartbeat : Watch
  links : Vector Watch 4
  deriving DecidableEq, Repr

/-! ### Fault unit (chapter 7) -/

/-- The twenty-one record kinds, in the order of their codes (R124). -/
inductive RecordKind where
  | started
  | tagMismatch
  | replayed
  | stale
  | unknownGeneration
  | malformed
  | refusedAccess
  | keyAccepted
  | renewalRefused
  | keyChanged
  | renewalDue
  | budgetExhausted
  | keyExpired
  | keyRetired
  | keysPurged
  | linkSilent
  | linkResumed
  | controllerSilent
  | controllerResumed
  | memoryError
  | summary
  deriving DecidableEq, Repr

/-- The office mark of a record (R133). -/
inductive OfficeMark where
  | no
  | inFlight
  | yes
  | notRequired
  deriving DecidableEq, Repr

/-- A fault event: what a block asks the fault unit to record (R123). -/
structure FaultEvent where
  kind : RecordKind
  context : Option Nat
  window : Option Nat
  parcel : Option Nat
  generation : Option Nat
  detailA : Nat
  detailB : Nat
  deriving DecidableEq, Repr

/-- A fault record (R125). `hostTaken` is the host mark TAKEN. -/
structure FaultRecord where
  ordinal : Nat
  event : FaultEvent
  tick : Tick
  age : Nat
  hostTaken : Bool
  office : OfficeMark
  deriving DecidableEq, Repr

/-- Why an access is refused, in the order of the codes (section 11.4). -/
inductive RefusalReason where
  | noKey
  | noticeArea
  | parcelBusy
  | headLine
  | notOpen
  | notAdmitted
  | inboundPlain
  | renewalArea
  | outboundRaw
  | outOfRange
  | crossesBoundary
  | readOnlyArea
  | commandBusy
  | controlRaw
  deriving DecidableEq, Repr

/-- A refusal counter (R131); `link` is the ordinal of its record. -/
structure RefusalCounter where
  value : Nat
  firstReason : Option RefusalReason
  firstParcel : Option Nat
  link : Option Nat
  deriving DecidableEq, Repr

/-- A counter at 0: no first reason, no first parcel, no link (R141). -/
def RefusalCounter.zero : RefusalCounter :=
  { value := 0, firstReason := none, firstParcel := none, link := none }

/-- The fault unit's state (chapter 7). Counter 8 is the no-window counter.
`countersWanted` says a write of the counters image is called for and not yet
issued; `countersArmed` that the first one after start-up is allowed (R140, R141). -/
structure FaultUnit where
  queue : List FaultRecord
  nextOrdinal : Nat
  overflow : List RecordKind
  lostSinceSummary : Nat
  lostTotal : Nat
  counters : Vector RefusalCounter 9
  posted : Option Nat
  postSound : Bool
  postPending : Bool
  postFence : Bool
  countersStale : Bool
  countersWriting : Bool
  countersWanted : Bool
  countersArmed : Bool
  attn : Bool
  deriving DecidableEq, Repr

/-! ### Notice composer (chapter 8) -/

/-- The composer's phases (R142). -/
inductive ComposerPhase where
  | idle
  | writing
  | awaitingRoom
  | sealing
  deriving DecidableEq, Repr

/-- The notice in progress (R142). -/
structure Notice where
  parcel : Nat
  context : Ctx
  ordinals : List Nat
  writesLeft : Nat
  deriving DecidableEq, Repr

/-- The notice composer's state (R142). -/
structure Composer where
  phase : ComposerPhase
  ring : Nat
  notice : Option Notice
  gatherTime : Nat
  gather : Mark
  retry : Mark
  published : Nat
  deriving DecidableEq, Repr

/-! ### Command unit (chapter 10) -/

/-- The command unit's phases (R167). -/
inductive CommandPhase where
  | idle
  | readingArguments
  | writingSnapshot
  | writingResult
  deriving DecidableEq, Repr

/-- Result statuses in the order of their codes; `none` is code 0, no result (section 11.4). -/
inductive Status where
  | none
  | done
  | busy
  | refused
  | badArgument
  | unknownCommand
  deriving DecidableEq, Repr

/-- The snapshot being written: its header image, its number of entries and the
entry writes not yet completed (R167, R176). -/
structure SnapshotRun where
  header : List Byte
  entries : Nat
  writesLeft : Nat
  deriving DecidableEq, Repr

/-- The command unit's state (R167). `arguments` are words 1 to 7 once read. -/
structure CommandUnit where
  phase : CommandPhase
  code : Nat
  ticket : Nat
  arguments : List Nat
  resultTicket : Nat
  resultStatus : Status
  resultDetail : Nat
  snapshot : Option SnapshotRun
  restartTicket : Nat
  deriving DecidableEq, Repr

/-! ### The part -/

/-- What the part is doing: running (start-up included), held while RESET_L is
low (R56), held after boundary scan was selected (R184), or draining after a
RESTART was taken (R57). -/
inductive PartMode where
  | running
  | resetLow
  | scanHeld
  | restarting
  deriving DecidableEq, Repr

/-- A report on its way to the fault unit: a fault event (R123), or one refused
piece with its counter, reason and parcel (R47, R131). -/
inductive Report where
  | event (e : FaultEvent)
  | refusal (counter : Fin 9) (reason : RefusalReason) (parcel : Option Nat)
  deriving DecidableEq, Repr

/-- What one step still has to hand on before it ends: reports to the fault unit
in order, and whether an examination event of the composer (R146) has happened.
Empty between steps (log 16). -/
structure Transit where
  reports : List Report
  examine : Bool
  deriving DecidableEq, Repr

/-- Nothing in transit. -/
def Transit.empty : Transit :=
  { reports := [], examine := false }

/-- The state of the BZ48 with the memory it drives, the responses it has
returned, and the queue of commands that wait. `freeCount` counts failed writes
and picks the free values of log 3. -/
structure State where
  pending : List Instr
  mode : PartMode
  mem : Memory
  windows : Vector (Option Window) 8
  path : MemoryPath
  tag : TagEngine
  keys : KeyTable
  fuses : FuseStore
  renewal : RenewalUnit
  time : Timebase
  fault : FaultUnit
  composer : Composer
  command : CommandUnit
  transit : Transit
  responses : List Response
  freeCount : Nat
  deriving DecidableEq, Repr

/-- Reasons the machine stops with a fault: none, since the rules give every
refused access, failed check and memory error an effect. -/
inductive Fault where
  deriving DecidableEq, Repr

/-- Reasons a step has no meaning. -/
inductive Refusal where
  /-- Raised by an arm of exec whose command has no meaning yet. Safe. -/
  | notModelled (mnemonic : String)
  /-- Raised by UPSTREAM_REQUEST and CONTROL_WINDOW_WRITE for an operand that is
  no upstream request or piece of the spec: a byte count outside 1 to 256, or a
  control-window piece outside one line of the window (00_scope.md, R43). Safe. -/
  | notARequest
  deriving DecidableEq, Repr

/-! ### Reset -/

/-- What a STARTED record names as its cause (section 11.4). -/
inductive Cause where
  | powerOn
  | resetLine
  | restart
  deriving DecidableEq, Repr

/-- The code of a cause (section 11.4). -/
def Cause.code : Cause → Nat
  | .powerOn => 1
  | .resetLine => 2
  | .restart => 3

/-- The STARTED record as a reset makes it; detail B and the office mark are
given when the root fuse store read ends (R141, log 29). -/
def startedRecord (cause : Cause) : FaultRecord :=
  { ordinal := 1,
    event := { kind := .started, context := none, window := none, parcel := none,
               generation := none, detailA := cause.code, detailB := 0 },
    tick := 0, age := 0, hostTaken := false, office := .notRequired }

/-- The start-up write of the result area, all zero (R55 step 2, R167). -/
def startUpZeroWrite : InternalRequest :=
  { purpose := .startUpResult, ignored := false, address := 0xFFF020,
    access := .write (List.replicate 32 (some 0)), orderPoint := 0 }

/-- The machine right after a power-on reset of a part whose fuse store was never
programmed: every field as the chapters give it, start-up begun (R55, logs 17, 33). -/
def State.reset : State :=
  { pending := [],
    mode := .running,
    mem := [],
    windows := Vector.replicate 8 none,
    path :=
      { hold := true, startUpResultDone := false, port := [], outstanding := [], passing := [],
        internal := [startUpZeroWrite], unissued := [], flight := [], turn := .passing,
        nextSerial := 0 },
    tag := { queue := [], running := none, deferred := [], waitingSeal := none },
    keys :=
      { slots := Vector.replicate 16 KeySlot.blank,
        contexts := Vector.replicate 4
          { settings := Settings.default, floor := 0, holdLine := true },
        grouping := .solo },
    fuses := { storeId := 0, wrapKey := 0, lock := false },
    renewal :=
      { storeId := 0, wrapKey := 0, provisioned := false, fuseReadDone := false,
        importList := [], importing := none },
    time := { tick := 0, heartbeat := Watch.off, links := Vector.replicate 4 Watch.off },
    fault :=
      { queue := [startedRecord .powerOn], nextOrdinal := 2, overflow := [],
        lostSinceSummary := 0, lostTotal := 0,
        counters := Vector.replicate 9 RefusalCounter.zero,
        posted := none, postSound := true, postPending := true, postFence := true,
        countersStale := true, countersWriting := false, countersWanted := false,
        countersArmed := false, attn := true },
    composer :=
      { phase := .idle, ring := 0, notice := none, gatherTime := 100, gather := Mark.absent,
        retry := Mark.absent, published := 0 },
    command :=
      { phase := .idle, code := 0, ticket := 0, arguments := [], resultTicket := 0,
        resultStatus := .none, resultDetail := 0, snapshot := none, restartTicket := 0 },
    transit := Transit.empty,
    responses := [],
    freeCount := 0 }

end Sys2Proof.Machine
end

