-- ==== Sys2Proof/Machine/Ops.lean ====
section
/-! DEFINITION. Named operations over memory, the register files and the tables; every read and write of them goes through here. -/

namespace Sys2Proof.Machine

/-! ### Memory -/

/-- What an address nothing has written reads as (log 2). -/
def unlistedByte : Byte :=
  0

/-- 16 MiB: downstream addresses are below this (R41). -/
def memorySize : Nat :=
  16777216

/-- The byte at an address. -/
def Memory.read : Memory → Nat → Byte
  | [], _ => unlistedByte
  | (a, b) :: rest, x => if x = a then b else Memory.read rest x

/-- Put one byte at an address, keeping the canonical form. -/
def Memory.put : Memory → Nat → Byte → Memory
  | [], x, v => if v = unlistedByte then [] else [(x, v)]
  | (a, b) :: rest, x, v =>
    if x < a then (if v = unlistedByte then (a, b) :: rest else (x, v) :: (a, b) :: rest)
    else if x = a then (if v = unlistedByte then rest else (x, v) :: rest)
    else (a, b) :: Memory.put rest x v

/-- The canonical form from a lowest allowed address on. -/
def Memory.wfFrom : Nat → Memory → Bool
  | _, [] => true
  | low, (a, b) :: rest =>
    decide (low ≤ a) && decide (a < memorySize) && decide (b ≠ unlistedByte) &&
      Memory.wfFrom (a + 1) rest

/-- The canonical form: addresses strictly rising and below 2^24, no byte equal
to what an unlisted address reads as. -/
def Memory.wf (m : Memory) : Bool :=
  Memory.wfFrom 0 m

/-- Write one byte: the downstream port has 24 address bits (R41). -/
def Memory.write (m : Memory) (address : Nat) (v : Byte) : Memory :=
  Memory.put m (address % memorySize) v

/-- Write the enabled bytes of a run that starts at an address. -/
def Memory.store : Memory → Nat → List (Option Byte) → Memory
  | m, _, [] => m
  | m, address, none :: rest => Memory.store m (address + 1) rest
  | m, address, some v :: rest => Memory.store (Memory.write m address v) (address + 1) rest

/-- Read a run of bytes. -/
def Memory.load (m : Memory) (address : Nat) : Nat → List Byte
  | 0 => []
  | n + 1 => Memory.read m (address % memorySize) :: Memory.load m (address + 1) n

/-- A failed write leaves at each address it named what the memory controller
left there: a free value (R50, log 3). -/
def Memory.scramble (n : Nat) : Memory → Nat → List (Option Byte) → Memory
  | m, _, [] => m
  | m, address, none :: rest => Memory.scramble n m (address + 1) rest
  | m, address, some _ :: rest =>
    Memory.scramble n (Memory.write m address (Config.failedWriteByte n address)) (address + 1) rest

/-- What a completed downstream access does to memory: a write lands, or, when
it ended in error, leaves free values; a read changes nothing (R49, R50). -/
def State.complete (s : State) (address : Nat) (access : Access) (error : Bool) : State :=
  match access with
  | .read _ => s
  | .write bytes =>
    if error then
      { s with mem := Memory.scramble s.freeCount s.mem address bytes, freeCount := s.freeCount + 1 }
    else
      { s with mem := Memory.store s.mem address bytes }

/-- The bytes a read returns. -/
def State.returned (s : State) (address : Nat) : Access → List Byte
  | .read n => Memory.load s.mem address n
  | .write _ => []

/-! ### Key slots and contexts -/

/-- Slots 1 to 15, in order: the usable slots (R78). -/
def usableSlots : List SlotId :=
  [1, 2, 3, 4, 5, 6, 7, 8, 9, 10, 11, 12, 13, 14, 15]

/-- The contexts in ascending order. -/
def contextIds : List Ctx :=
  [0, 1, 2, 3]

/-- The window table's indexes in order. -/
def windowIds : List WindowIndex :=
  [0, 1, 2, 3, 4, 5, 6, 7]

/-- A key slot. -/
def State.slot (s : State) (i : SlotId) : KeySlot :=
  s.keys.slots[i]

/-- Change a key slot. The null slot is EMPTY with every field zero at every
moment, so a change of it is discarded (R78). -/
def State.updateSlot (s : State) (i : SlotId) (f : KeySlot → KeySlot) : State :=
  if i = 0 then s
  else { s with keys := { s.keys with slots := s.keys.slots.set i (f (s.slot i)) } }

/-- The row of a context. -/
def State.context (s : State) (c : Ctx) : ContextRow :=
  s.keys.contexts[c]

/-- Change the row of a context. -/
def State.updateContext (s : State) (c : Ctx) (f : ContextRow → ContextRow) : State :=
  { s with keys := { s.keys with contexts := s.keys.contexts.set c (f (s.context c)) } }

/-- The usable slots of a context in a state. -/
def State.slotsIn (s : State) (c : Ctx) (st : SlotState) : List SlotId :=
  usableSlots.filter fun i => decide ((s.slot i).state = st) && decide ((s.slot i).context = c)

/-- The ACTIVE slot of a context (R81: at most one). -/
def State.activeSlot (s : State) (c : Ctx) : Option SlotId :=
  (s.slotsIn c .active).head?

/-- The DRAINING slot of a context (R81: at most one). -/
def State.drainingSlot (s : State) (c : Ctx) : Option SlotId :=
  (s.slotsIn c .draining).head?

/-- Of two slots, the one with the lower generation. -/
def State.older (s : State) (i j : SlotId) : SlotId :=
  if (s.slot j).generation < (s.slot i).generation then j else i

/-- The staged head of a context: its STAGED slot with the lowest generation (R81). -/
def State.stagedHead (s : State) (c : Ctx) : Option SlotId :=
  match s.slotsIn c .staged with
  | [] => none
  | i :: rest => some (rest.foldl s.older i)

/-- The staged tail of a context: the STAGED slot that is not the head (R81). -/
def State.stagedTail (s : State) (c : Ctx) : Option SlotId :=
  ((s.slotsIn c .staged).filter fun i => decide (some i ≠ s.stagedHead c)).head?

/-! ### Window table and parcel records -/

/-- A window table entry, none when invalid (R1). -/
def State.window (s : State) (w : WindowIndex) : Option Window :=
  s.windows[w]

/-- Give a window table entry a value. -/
def State.setWindow (s : State) (w : WindowIndex) (e : Option Window) : State :=
  { s with windows := s.windows.set w e }

/-- A parcel record of a valid window (R6). -/
def State.parcel (s : State) (w : WindowIndex) (p : Nat) : Option ParcelRecord :=
  match s.window w with
  | none => none
  | some e => e.parcels[p]?

/-- Change a parcel record. -/
def State.updateParcel (s : State) (w : WindowIndex) (p : Nat)
    (f : ParcelRecord → ParcelRecord) : State :=
  match s.window w with
  | none => s
  | some e => s.setWindow w (some { e with parcels := e.parcels.modify p f })

/-- The index of the NOTICE window, if one is valid (R3: at most one). -/
def State.noticeWindow (s : State) : Option WindowIndex :=
  windowIds.find? fun w =>
    match s.window w with
    | none => false
    | some e => decide (e.role = .notice)

/-- The downstream address of a byte of a parcel (R1). -/
def Window.address (e : Window) (parcel offset : Nat) : Nat :=
  e.base + 2048 * parcel + offset

/-! ### Reports in transit -/

/-- Hand a fault event to the fault unit (R123); it is taken once the raising
event's own effects have been applied (log 16). -/
def State.raise (s : State) (e : FaultEvent) : State :=
  { s with transit := { s.transit with reports := s.transit.reports ++ [.event e] } }

/-- Report a refused piece to the fault unit (R47). -/
def State.reportRefusal (s : State) (counter : Fin 9) (reason : RefusalReason)
    (parcel : Option Nat) : State :=
  { s with transit := { s.transit with
      reports := s.transit.reports ++ [.refusal counter reason parcel] } }

/-- Note that an examination event of the composer has happened (R146). -/
def State.noteExamination (s : State) : State :=
  { s with transit := { s.transit with examine := true } }

/-! ### Internal requests -/

/-- A block has a request to issue into the internal stream (R51). -/
def State.want (s : State) (purpose : Purpose) (address : Nat) (access : Access)
    (orderPoint : Nat) : State :=
  { s with path := { s.path with unissued := s.path.unissued ++
      [{ purpose := purpose, ignored := false, address := address, access := access,
         orderPoint := orderPoint }] } }

/-- A block has several requests to issue, in order (R51). -/
def State.wantAll (s : State) (requests : List InternalRequest) : State :=
  { s with path := { s.path with unissued := s.path.unissued ++ requests } }

/-- Is the access a part of the passing stream? -/
def Flight.isPassing : Flight → Bool
  | .passing _ => true
  | .internal _ => false

/-- How many pieces the passing stream holds: those not yet granted and those
granted and not yet completed (R49). -/
def State.passingCount (s : State) : Nat :=
  s.path.passing.length + (s.path.flight.filter Flight.isPassing).length

/-- How many requests the internal stream holds (R51). -/
def State.internalCount (s : State) : Nat :=
  s.path.internal.length + (s.path.flight.filter fun f => !f.isPassing).length

/-- Mark a request ignored when its purpose is one of those discarded. -/
def InternalRequest.ignore (discarded : Purpose → Bool) (r : InternalRequest) : InternalRequest :=
  if discarded r.purpose then { r with ignored := true } else r

/-- Mark a granted access ignored when its purpose is one of those discarded. -/
def Flight.ignore (discarded : Purpose → Bool) : Flight → Flight
  | .passing p => .passing p
  | .internal r => .internal (r.ignore discarded)

/-- A block discards work: its requests not yet in the stream are not issued,
and those in the stream run to their end with their results ignored (R54). -/
def State.discard (s : State) (discarded : Purpose → Bool) : State :=
  { s with path := { s.path with
      unissued := s.path.unissued.filter fun r => !discarded r.purpose,
      internal := s.path.internal.map (InternalRequest.ignore discarded),
      flight := s.path.flight.map (Flight.ignore discarded) } }

/-- Does the access stand for a request of such a purpose whose result is still wanted? -/
def Flight.wanted (purposes : Purpose → Bool) : Flight → Bool
  | .passing _ => false
  | .internal r => purposes r.purpose && !r.ignored

/-- Has the block requests in the internal stream whose results it still waits for? -/
def State.awaits (s : State) (purposes : Purpose → Bool) : Bool :=
  s.path.internal.any (fun r => purposes r.purpose && !r.ignored) ||
    s.path.flight.any (Flight.wanted purposes)

end Sys2Proof.Machine
end

