-- ==== Sys2Proof/Machine/Operands.lean ====
section
/-! DEFINITION. Byte order, operand forms, code tables and memory layouts (chapter 11, R106, R173). -/

namespace Sys2Proof.Machine

/-! ### Byte order -/

/-- The low bytes of a number, least significant first (00_scope.md, Memory quantities). -/
def leBytes : Nat → Nat → List Byte
  | 0, _ => []
  | n + 1, v => BitVec.ofNat 8 v :: leBytes n (v / 256)

/-- The number a run of bytes holds, least significant first. -/
def leValue : List Byte → Nat
  | [] => 0
  | b :: rest => b.toNat + 256 * leValue rest

/-- A part of a run of bytes. -/
def slice (bytes : List Byte) (offset width : Nat) : List Byte :=
  (bytes.drop offset).take width

/-- A little-endian field of a run of bytes. -/
def field (bytes : List Byte) (offset width : Nat) : Nat :=
  leValue (slice bytes offset width)

/-- A 16-byte block from bytes in memory order. -/
def blockOf (bytes : List Byte) : Block :=
  BitVec.ofNat 128 (leValue (bytes.take 16))

/-- A flag word or flag byte: 1 when set (section 11.3). -/
def flag (b : Bool) : Nat :=
  if b then 1 else 0

/-- A line with every byte enabled. -/
def wholeLine (bytes : List Byte) : Access :=
  .write (bytes.map some)

/-- A number as an index, when it is one. -/
def index? (k n : Nat) : Option (Fin k) :=
  if h : n < k then some ⟨n, h⟩ else none

/-! ### Control window places (R183) -/

/-- Downstream address of the control window. -/
def controlBase : Nat :=
  0xFFF000

/-- Downstream address of the result area. -/
def resultAddress : Nat :=
  controlBase + 0x020

/-- Downstream address of the post area. -/
def postAddress : Nat :=
  controlBase + 0x060

/-- Downstream address of the counters area. -/
def countersAddress : Nat :=
  controlBase + 0x080

/-- Downstream address of the snapshot header; the entries follow it. -/
def snapshotAddress : Nat :=
  controlBase + 0x100

/-- Does an offset of the control window lie in a part-owned area (R169, R183)? -/
def inPartOwnedArea (offset : Nat) : Bool :=
  decide (0x020 ≤ offset ∧ offset < 0x040) || decide (0x060 ≤ offset ∧ offset < 0x0A0) ||
    decide (0x100 ≤ offset)

/-- Does an offset lie in the command area (R183)? -/
def inCommandArea (offset : Nat) : Bool :=
  decide (offset < 0x020)

/-- Does an offset lie in the heartbeat word (R183)? -/
def inHeartbeatWord (offset : Nat) : Bool :=
  decide (0x040 ≤ offset ∧ offset < 0x044)

/-- The marker value of the arrival word (R13). -/
def markerValue : Nat :=
  0x5A17C3E9

/-! ### Codes (section 11.4) -/

/-- Direction of a code, OUTBOUND 1, INBOUND 2. -/
def directionOf? : Nat → Option Direction
  | 1 => some .outbound
  | 2 => some .inbound
  | _ => none

/-- The code of a direction. -/
def Direction.code : Direction → Nat
  | .outbound => 1
  | .inbound => 2

/-- Role of a code, DATA 1, NOTICE 2, RENEWAL 3. -/
def roleOf? : Nat → Option Role
  | 1 => some .data
  | 2 => some .notice
  | 3 => some .renewal
  | _ => none

/-- The code of a role, which is also the parcel kind it carries. -/
def Role.code : Role → Nat
  | .data => 1
  | .notice => 2
  | .renewal => 3

/-- Grouping of a code, SOLO 0, PAIRS 1, ALL 2. -/
def groupingOf? : Nat → Option Grouping
  | 0 => some .solo
  | 1 => some .pairs
  | 2 => some .all
  | _ => none

/-- The code of a grouping. -/
def Grouping.code : Grouping → Nat
  | .solo => 0
  | .pairs => 1
  | .all => 2

/-- Fallback of a code: 0 to 3 a context, 255 none; other codes name neither. -/
def fallbackOf? (n : Nat) : Option (Option Ctx) :=
  if n = 255 then some none
  else match index? 4 n with
    | some c => some (some c)
    | none => none

/-- The code of a fallback. -/
def fallbackCode : Option Ctx → Nat
  | none => 255
  | some c => c.val

/-- Activation mode of a code, AT_ONCE 0 to WITH_GROUP 3. -/
def modeOf? : Nat → Option ActivationMode
  | 0 => some .atOnce
  | 1 => some .atMark
  | 2 => some .onPeerUse
  | 3 => some .withGroup
  | _ => none

/-- The code of an activation mode. -/
def ActivationMode.code : ActivationMode → Nat
  | .atOnce => 0
  | .atMark => 1
  | .onPeerUse => 2
  | .withGroup => 3

/-- The code of a parcel state. -/
def ParcelState.code : ParcelState → Nat
  | .free => 0
  | .filling => 1
  | .sealing => 2
  | .sealed => 3
  | .arriving => 4
  | .checking => 5
  | .admitted => 6
  | .rejected => 7

/-- The code of a slot state. -/
def SlotState.code : SlotState → Nat
  | .empty => 0
  | .staged => 1
  | .active => 2
  | .draining => 3
  | .retiring => 4

/-- The code of an owner, 0 for none. -/
def ownerCode : Option Owner → Nat
  | none => 0
  | some .controller => 1
  | some .composer => 2

/-- The code of a composer phase. -/
def ComposerPhase.code : ComposerPhase → Nat
  | .idle => 0
  | .writing => 1
  | .awaitingRoom => 2
  | .sealing => 3

/-- The code of a result status. -/
def Status.code : Status → Nat
  | .none => 0
  | .done => 1
  | .busy => 2
  | .refused => 3
  | .badArgument => 4
  | .unknownCommand => 5

/-- The code of an access refusal reason. -/
def RefusalReason.code : RefusalReason → Nat
  | .noKey => 1
  | .noticeArea => 2
  | .parcelBusy => 3
  | .headLine => 4
  | .notOpen => 5
  | .notAdmitted => 6
  | .inboundPlain => 7
  | .renewalArea => 8
  | .outboundRaw => 9
  | .outOfRange => 10
  | .crossesBoundary => 11
  | .readOnlyArea => 12
  | .commandBusy => 13
  | .controlRaw => 14

/-- The code of a tag job kind in MEMORY_ERROR. -/
def JobKind.code : JobKind → Nat
  | .sealData => 1
  | .sealNotice => 2
  | .check => 3
  | .checkRenewal => 4

/-- The job kind code IMPORT of MEMORY_ERROR. -/
def importCode : Nat :=
  5

/-- The job kind code NOTICE_WRITE of MEMORY_ERROR. -/
def noticeWriteCode : Nat :=
  6

/-- The job kind code COMMAND of MEMORY_ERROR. -/
def commandCode : Nat :=
  7

/-- The code of a record kind (R124). -/
def RecordKind.code : RecordKind → Nat
  | .started => 1
  | .tagMismatch => 2
  | .replayed => 3
  | .stale => 4
  | .unknownGeneration => 5
  | .malformed => 6
  | .refusedAccess => 7
  | .keyAccepted => 8
  | .renewalRefused => 9
  | .keyChanged => 10
  | .renewalDue => 11
  | .budgetExhausted => 12
  | .keyExpired => 13
  | .keyRetired => 14
  | .keysPurged => 15
  | .linkSilent => 16
  | .linkResumed => 17
  | .controllerSilent => 18
  | .controllerResumed => 19
  | .memoryError => 20
  | .summary => 21

/-- The severity of a record kind, INFO 1, WARNING 2, ALERT 3 (R124). -/
def RecordKind.severity : RecordKind → Nat
  | .started => 1
  | .tagMismatch => 2
  | .replayed => 2
  | .stale => 2
  | .unknownGeneration => 2
  | .malformed => 2
  | .refusedAccess => 1
  | .keyAccepted => 1
  | .renewalRefused => 2
  | .keyChanged => 1
  | .renewalDue => 2
  | .budgetExhausted => 2
  | .keyExpired => 3
  | .keyRetired => 2
  | .keysPurged => 3
  | .linkSilent => 2
  | .linkResumed => 1
  | .controllerSilent => 3
  | .controllerResumed => 1
  | .memoryError => 3
  | .summary => 2

/-- The word of a set of kinds: kind code k is bit k - 1 (R124). -/
def overflowWord (kinds : List RecordKind) : Nat :=
  kinds.foldl (fun acc k => acc ||| 2 ^ (k.code - 1)) 0

/-! ### Layouts -/

/-- The head line a seal writes (R64, R181). -/
def headLineBytes (context kind generation sequence station length tag : Nat) : List Byte :=
  leBytes 1 context ++ leBytes 1 kind ++ leBytes 2 generation ++ leBytes 4 sequence ++
    leBytes 4 station ++ leBytes 4 length ++ leBytes 4 tag ++ leBytes 8 0 ++ leBytes 4 markerValue

/-- The fields a check takes from a head line at their full width (R66, R181). -/
def headLineOf (bytes : List Byte) : HeadLine :=
  { context := field bytes 0 1, kind := field bytes 1 1, generation := field bytes 2 2,
    sequence := field bytes 4 4, station := field bytes 8 4, length := field bytes 12 4,
    tag := field bytes 16 4 }

/-- A renewal record as carried (R106, R182). -/
structure RenewalRecord where
  context : Nat
  mode : Nat
  generation : Nat
  activationMark : Nat
  budget : Nat
  lifetime : Nat
  wrapped1 : Block
  wrapped2 : Block
  checkValue : Nat
  deriving DecidableEq, Repr

/-- The renewal record of payload bytes 0 to 63 (R182). -/
def renewalRecordOf (bytes : List Byte) : RenewalRecord :=
  { context := field bytes 0 1, mode := field bytes 1 1, generation := field bytes 2 2,
    activationMark := field bytes 4 4, budget := field bytes 8 4, lifetime := field bytes 12 4,
    wrapped1 := blockOf (slice bytes 16 16), wrapped2 := blockOf (slice bytes 32 16),
    checkValue := field bytes 48 4 }

/-- The presence byte of a record image (R183). -/
def presence (e : FaultEvent) : Nat :=
  flag e.context.isSome + 2 * flag e.window.isSome + 4 * flag e.parcel.isSome +
    8 * flag e.generation.isSome

/-- A fault record image, with detail A as the moment of the image gives it (R132, R183). -/
def recordImage (r : FaultRecord) (detailA : Nat) : List Byte :=
  leBytes 4 r.ordinal ++ leBytes 1 r.event.kind.code ++ leBytes 1 r.event.kind.severity ++
    leBytes 1 (presence r.event) ++ leBytes 1 (r.event.context.getD 0) ++
    leBytes 1 (r.event.window.getD 0) ++ leBytes 1 (r.event.parcel.getD 0) ++
    leBytes 2 (r.event.generation.getD 0) ++ leBytes 4 r.tick.toNat ++ leBytes 4 detailA ++
    leBytes 4 r.event.detailB ++ leBytes 8 0

/-- The empty image: 32 zero bytes (R183). -/
def emptyImage : List Byte :=
  leBytes 32 0

/-- The result area's line: ticket in bytes 0 to 2, status code, detail (R183). -/
def resultLine (ticket : Nat) (status : Status) (detail : Nat) : List Byte :=
  leBytes 4 (ticket % 16777216) ++ leBytes 4 status.code ++ leBytes 4 detail ++ leBytes 20 0

/-- The counters area's line (R140, R183). -/
def countersLine (total sinceSummary published : Nat) (values : List Nat) : List Byte :=
  leBytes 4 total ++ leBytes 4 sinceSummary ++ leBytes 4 published ++
    (values.map (leBytes 2)).flatten ++ leBytes 2 0

/-- The admitted set as a word, bit k for sequence H - k (R177). -/
def admittedWord (highMark : Nat) (admitted : List Nat) : Nat :=
  (List.range 32).foldl
    (fun acc k => if k ≤ highMark ∧ highMark - k ∈ admitted then acc + 2 ^ k else acc) 0

/-- A KEYS entry: 64 bytes, no key material (R177, section 11.3). -/
def keysEntry (k : KeySlot) : List Byte :=
  leBytes 1 k.state.code ++ leBytes 1 k.context.val ++ leBytes 2 k.generation ++
    leBytes 4 k.checkValue ++ leBytes 1 k.mode.code ++
    leBytes 1 (flag k.activationLatch + 2 * flag k.expiryLatch + 4 * flag k.renewalDueLatch +
      8 * flag k.drainLatch + 16 * flag k.renewalDueRaised + 32 * flag k.budgetExhaustedRaised) ++
    leBytes 2 k.references ++ leBytes 4 k.budget ++ leBytes 4 k.usage ++
    leBytes 4 k.nextSequence ++ leBytes 4 k.lifetime ++ leBytes 4 k.activationMark.toNat ++
    leBytes 4 k.expiryMark.toNat ++ leBytes 4 k.renewalDueMark.toNat ++
    leBytes 4 k.drainDeadline.toNat ++ leBytes 4 k.highMark ++
    leBytes 4 (admittedWord k.highMark k.admitted) ++ leBytes 12 0

/-- Where a parcel stands with the tag engine and the renewal unit (R177). -/
inductive JobPosition where
  | none
  | waiting
  | running
  | deferred
  | importing
  deriving DecidableEq, Repr

/-- The code of a job position (section 11.4). -/
def JobPosition.code : JobPosition → Nat
  | .none => 0
  | .waiting => 1
  | .running => 2
  | .deferred => 3
  | .importing => 4

/-- The number of an optional slot, 0 when absent (R177, R178). -/
def slotNumber : Option SlotId → Nat
  | none => 0
  | some i => i.val

/-- A PARCELS entry: 16 bytes (R177, section 11.3). -/
def parcelsEntry (r : ParcelRecord) (position : JobPosition) : List Byte :=
  leBytes 1 r.state.code ++ leBytes 1 (ownerCode r.owner) ++ leBytes 1 (slotNumber r.slot) ++
    leBytes 1 (flag r.deferred + 2 * flag r.releasePending) ++ leBytes 4 (r.sequence.getD 0) ++
    leBytes 2 (r.length.getD 0) ++ leBytes 1 position.code ++ leBytes 5 0

/-- A mark's value, shown as 0 when it has none (R178). -/
def Mark.shown (m : Mark) : Nat :=
  match m.value with
  | none => 0
  | some t => t.toNat

/-- A mark status word: bit 0 the latch, bit 1 set when the mark has a value (section 11.3). -/
def Mark.status (m : Mark) : Nat :=
  flag m.latch + 2 * flag m.value.isSome

/-- Words in order, four bytes each. -/
def wordsBytes (words : List Nat) : List Byte :=
  (words.map (leBytes 4)).flatten

/-- Argument words 1 to 7 of the command area's line (R173). -/
def argumentWords (line : List Byte) : List Nat :=
  (List.range 7).map fun k => field line (4 * (k + 1)) 4

/-- Argument word n, from 1 (R173). -/
def argument (words : List Nat) (n : Nat) : Nat :=
  words.getD (n - 1) 0

end Sys2Proof.Machine
end

