-- ==== Sys2Proof/Machine/Cipher.lean ====
section
/-! DEFINITION. The line cipher and the parcel tag (chapter 2). -/

namespace Sys2Proof.Machine

/-- P = 2^31 - 1 (00_scope.md, Numbers and units). -/
def tagPrime : Nat :=
  2147483647

/-- E(K, B) (R26). -/
def encipherBlock (k : Key) (b : Block) : Block :=
  Config.blockTransform k b

/-- D(K, B), the inverse of E (R26). -/
def decipherBlock (k : Key) (b : Block) : Block :=
  (Config.blockTransform k).symm b

/-- The first word of a block, bytes 0 to 3 read little-endian (R32). -/
def firstWord (b : Block) : Nat :=
  b.toNat % 4294967296

/-- The counter block of a half-line (R27). -/
def counterBlock (context direction generation sequence line half : Nat) : Block :=
  blockOf (leBytes 1 context ++ leBytes 1 direction ++ leBytes 2 generation ++
    leBytes 4 sequence ++ leBytes 1 line ++ leBytes 1 half ++ leBytes 6 0)

/-- Byte i of a block (R26). -/
def blockByte (b : Block) (i : Nat) : Byte :=
  b.extractLsb' (8 * i) 8

/-- Keystream byte j of payload line n: byte j mod 16 of E(K, C) with half j div 16 (R28). -/
def keystreamByte (k : Key) (context direction generation sequence line j : Nat) : Byte :=
  blockByte (encipherBlock k
    (counterBlock context direction generation sequence line (j / 16))) (j % 16)

/-- The keystream of a run of bytes of one line (R28, R45). -/
def keystream (k : Key) (context direction generation sequence line offset count : Nat) :
    List Byte :=
  (List.range count).map fun d =>
    keystreamByte k context direction generation sequence line (offset + d)

/-- XOR a run of bytes with its keystream; an empty keystream applies no cipher (R28, R30). -/
def applyKeystream : List Byte → List Byte → List Byte
  | [], _ => []
  | b :: rest, [] => b :: applyKeystream rest []
  | b :: rest, k :: ks => (b ^^^ k) :: applyKeystream rest ks

/-- XOR each enabled byte with the keystream byte of its position (R29). -/
def applyKeystreamEnabled : List (Option Byte) → List Byte → List (Option Byte)
  | [], _ => []
  | b :: rest, [] => b :: applyKeystreamEnabled rest []
  | none :: rest, _ :: ks => none :: applyKeystreamEnabled rest ks
  | some b :: rest, k :: ks => some (b ^^^ k) :: applyKeystreamEnabled rest ks

/-- The block H: byte 0 is 0xF1, bytes 1 to 15 zero (R32). -/
def hashBlock : Block :=
  0xF1

/-- The hash key of a key (R32; R39 for W). -/
def hashKeyOf (k : Key) : Nat :=
  let h := firstWord (encipherBlock k hashBlock) % tagPrime
  if h = 0 then 1 else h

/-- The tag mask of a parcel (R33; R39 for W). -/
def tagMask (k : Key) (context direction generation sequence : Nat) : Nat :=
  firstWord (encipherBlock k (counterBlock context direction generation sequence 0 0)) % tagPrime

/-- Little-endian words of a run of bytes; bytes past its end count as zero (R34). -/
def payloadWords : List Byte → List Nat
  | [] => []
  | [a] => [leValue [a]]
  | [a, b] => [leValue [a, b]]
  | [a, b, c] => [leValue [a, b, c]]
  | a :: b :: c :: d :: rest => leValue [a, b, c, d] :: payloadWords rest

/-- The four header words (R35). -/
def headerWords (kind context generation sequence station length : Nat) : List Nat :=
  [kind * 16777216 + context * 65536 + generation, sequence, station, length]

/-- A word reduced modulo P (R36). -/
def reduceWord (x : Nat) : Nat :=
  x % tagPrime

/-- Horner's rule at the hash key (R37). -/
def accumulate (h : Nat) (words : List Nat) : Nat :=
  words.foldl (fun a w => ((a + reduceWord w) * h) % tagPrime) 0

/-- The tag of words under a hash key and a mask (R37). -/
def tagOf (h mask : Nat) (words : List Nat) : Nat :=
  (accumulate h words + mask) % tagPrime

/-- The words a tag covers: the first `length` payload bytes, then the header words (R34, R35). -/
def tagWords (payload : List Byte) (kind context generation sequence station length : Nat) :
    List Nat :=
  payloadWords (payload.take length) ++
    headerWords kind context generation sequence station length

/-- Lines 1 to ceil(L / 32) are read back (R34). -/
def linesFor (length : Nat) : Nat :=
  (length + 31) / 32

/-- The traffic key unwrapped from C1 and C2 under W: byte 0 of K is byte 0 of D(W, C1) (R111, R182). -/
def unwrapKey (w : Key) (c1 c2 : Block) : Key :=
  (decipherBlock w c2) ++ (decipherBlock w c1)

/-- The check value of a key: the first word of E(K, Z), Z the block of zeros (R111). -/
def checkValueOf (k : Key) : Nat :=
  firstWord (encipherBlock k 0)

end Sys2Proof.Machine
end

