-- ==== Sys2Proof/Machine/Flags.lean ====
section
/-! DEFINITION. Marks and latches, the watched marks, and the levels of the output lines (R158, R139, R184). -/

namespace Sys2Proof.Machine

/-- A mark is reached at a tick count when the count less the mark, mod 2^32, is
below 2^31 (R158). -/
def reached (now mark : Tick) : Bool :=
  decide ((now - mark).toNat < 2147483648)

/-- A tick value some ticks ahead, mod 2^32. -/
def ahead (now : Tick) (ticks : Nat) : Tick :=
  now + BitVec.ofNat 32 ticks

/-- A mark just given a value ahead of the tick count: latch clear (R158). -/
def Mark.set (t : Tick) : Mark :=
  { value := some t, latch := false }

/-- A mark with a value and a clear latch is watched; it is due when the test
holds for it (R158). -/
def Mark.due (m : Mark) (now : Tick) : Bool :=
  match m.value with
  | none => false
  | some t => !m.latch && reached now t

/-- The activation mark of an AT_MARK staged slot is watched and the test holds (R158, R118). -/
def State.activationDue (s : State) (i : SlotId) : Bool :=
  let k := s.slot i
  decide (k.state = .staged) && decide (k.mode = .atMark) && !k.activationLatch &&
    reached s.time.tick k.activationMark

/-- Have the slot's expiry and renewal-due marks been given their values (R89, R158)?
They keep them when the slot leaves ACTIVE, until it becomes EMPTY (R79, log 38). -/
def KeySlot.hasMarks (k : KeySlot) : Bool :=
  decide (k.state = .active) || k.activated

/-- The expiry mark of a slot is watched and the test holds (R79, R158). -/
def State.expiryDue (s : State) (i : SlotId) : Bool :=
  let k := s.slot i
  k.hasMarks && !k.expiryLatch && reached s.time.tick k.expiryMark

/-- The renewal-due mark of a slot is watched and the test holds (R79, R158). -/
def State.renewalMarkDue (s : State) (i : SlotId) : Bool :=
  let k := s.slot i
  k.hasMarks && !k.renewalDueLatch && reached s.time.tick k.renewalDueMark

/-- The drain deadline of a DRAINING slot is watched and the test holds (R158, R92). -/
def State.drainDue (s : State) (i : SlotId) : Bool :=
  let k := s.slot i
  decide (k.state = .draining) && !k.drainLatch && reached s.time.tick k.drainDeadline

/-- ATTN is asserted exactly when some record has not been taken (R139). -/
def attnLevel (queue : List FaultRecord) : Bool :=
  queue.any fun r => !r.hostTaken

/-- Is the part held with its lines driven asserted (R184)? -/
def PartMode.held : PartMode → Bool
  | .running => false
  | .resetLow => true
  | .scanHeld => true
  | .restarting => false

/-- The ATTN line as the board sees it (R139, R184). -/
def State.attnLine (s : State) : Bool :=
  s.mode.held || s.fault.attn

/-- HOLD_c as the link engine sees it (R99, R184). -/
def State.holdLine (s : State) (c : Ctx) : Bool :=
  s.mode.held || (s.context c).holdLine

/-- The store id as the test port reads it back (R184). -/
def State.testPortStoreId (s : State) : Word :=
  s.fuses.storeId

end Sys2Proof.Machine
end

