-- ==== Sys2Proof/Machine/KeyTable.lean ====
section
/-! DEFINITION. The key table: references, budgets, changeover, group activation, expiry, drain, HOLD (chapter 5). -/

namespace Sys2Proof.Machine

/-- A fault event of the key table: context and generation, no window, no parcel (R100). -/
def keyEvent (kind : RecordKind) (c : Ctx) (generation detailA detailB : Nat) : FaultEvent :=
  { kind := kind, context := some c.val, window := none, parcel := none,
    generation := some generation, detailA := detailA, detailB := detailB }

/-- A slot that leaves service becomes RETIRING, or EMPTY with every field zero
if its reference count is 0 (R86, R92). -/
def KeySlot.leaveService (k : KeySlot) : KeySlot :=
  if k.references = 0 then KeySlot.blank else { k with state := .retiring }

/-- A record that names the slot goes FREE: the reference count goes down by one,
and a RETIRING slot whose count falls to zero becomes EMPTY (R85, R86). -/
def KeySlot.dropReference (k : KeySlot) : KeySlot :=
  if k.state = .retiring ∧ k.references ≤ 1 then KeySlot.blank
  else { k with references := k.references - 1 }

/-- A parcel record takes the slot (R85). -/
def KeySlot.takeReference (k : KeySlot) : KeySlot :=
  { k with references := k.references + 1 }

/-- Remaining budget. -/
def KeySlot.remaining (k : KeySlot) : Nat :=
  k.budget - k.usage

/-- A usable generation: usage below budget and next sequence at most 4,294,967,295 (R7, R87). -/
def KeySlot.usable (k : KeySlot) : Bool :=
  decide (k.usage < k.budget) && decide (k.nextSequence ≤ 4294967295)

/-- The usable ACTIVE slot of a context (R7). -/
def State.usableSlot (s : State) (c : Ctx) : Option SlotId :=
  match s.activeSlot c with
  | none => none
  | some i => if (s.slot i).usable then some i else none

/-- An exhausted ACTIVE generation: usage equal to its budget (R88). -/
def State.exhausted (s : State) (c : Ctx) : Bool :=
  match s.activeSlot c with
  | none => false
  | some i => decide ((s.slot i).budget ≤ (s.slot i).usage)

/-! ### HOLD lines -/

/-- The level a re-evaluation gives HOLD_c (R99). -/
def State.holdLevel (s : State) (c : Ctx) : Bool :=
  match s.activeSlot c with
  | none => true
  | some i =>
    let left := (s.slot i).remaining
    let set := (s.context c).settings
    if left < set.holdLow then true
    else if set.holdHigh ≤ left then false
    else (s.context c).holdLine

/-- Re-evaluate HOLD_c (R99). -/
def State.evaluateHold (s : State) (c : Ctx) : State :=
  s.updateContext c fun r => { r with holdLine := s.holdLevel c }

/-! ### Renewal due -/

/-- Remaining ticks to expiry: 0 once the expiry latch is set (R94). -/
def State.remainingTicks (s : State) (k : KeySlot) : Nat :=
  if k.expiryLatch then 0 else (k.expiryMark - s.time.tick).toNat

/-- The conditions of RENEWAL_DUE for the ACTIVE slot i of context c (R94). -/
def State.renewalIsDue (s : State) (c : Ctx) (i : SlotId) : Bool :=
  let k := s.slot i
  !k.renewalDueRaised && decide (k.state = .active) &&
    (decide (k.remaining ≤ (s.context c).settings.reserveParcels) || k.renewalDueLatch) &&
    (s.slotsIn c .staged).isEmpty

/-- Evaluate renewal due for a context's ACTIVE generation; RENEWAL_DUE is raised
at most once per generation (R94). -/
def State.evaluateRenewalDue (s : State) (c : Ctx) : State :=
  match s.activeSlot c with
  | none => s
  | some i =>
    if s.renewalIsDue c i then
      (s.updateSlot i fun k => { k with renewalDueRaised := true }).raise
        (keyEvent .renewalDue c (s.slot i).generation (s.slot i).remaining
          (s.remainingTicks (s.slot i)))
    else s

/-- Give the ACTIVE slot's renewal-due mark a value; it is reached at once when
the test already holds (R82, R89 steps 3 and 6, R158). -/
def State.setRenewalDueMark (s : State) (i : SlotId) (mark : Tick) : State :=
  s.updateSlot i fun k =>
    { k with renewalDueMark := mark, renewalDueLatch := reached s.time.tick mark }

/-! ### Changeover -/

/-- Step 1 of R89: the context's DRAINING slot leaves service. -/
def State.retireDraining (s : State) (c : Ctx) : State :=
  match s.drainingSlot c with
  | none => s
  | some d => s.updateSlot d KeySlot.leaveService

/-- A slot becomes DRAINING with deadline now + the context's drain period (R89 step 2, R93). -/
def State.startDraining (s : State) (c : Ctx) (i : SlotId) : State :=
  s.updateSlot i fun k =>
    { k with state := .draining, drainLatch := false,
             drainDeadline := ahead s.time.tick (s.context c).settings.drainPeriod }

/-- Step 2 of R89: the context's ACTIVE slot drains. -/
def State.drainActive (s : State) (c : Ctx) : State :=
  match s.activeSlot c with
  | none => s
  | some a => s.startDraining c a

/-- The generation of the context's ACTIVE slot, 0 if none (R89 step 2). -/
def State.activeGeneration (s : State) (c : Ctx) : Nat :=
  match s.activeSlot c with
  | none => 0
  | some a => (s.slot a).generation

/-- Step 3 of R89: the slot becomes ACTIVE with its expiry and renewal-due marks,
which are watched from now on (R158). -/
def State.makeActive (s : State) (c : Ctx) (i : SlotId) : State :=
  let expiry := ahead s.time.tick (s.slot i).lifetime
  let s1 := s.updateSlot i fun k =>
    { k with state := .active, activated := true, expiryMark := expiry, expiryLatch := false }
  s1.setRenewalDueMark i (expiry - BitVec.ofNat 32 (s.context c).settings.reserveTicks)

/-- One changeover of a context to its staged head, without what may follow it
(R89). Step 4 needs nothing: the staged list is read off the slots. -/
def State.changeoverOnce (s : State) (c : Ctx) : State :=
  match s.stagedHead c with
  | none => s
  | some h =>
    let old := s.activeGeneration c
    let s1 := ((s.retireDraining c).drainActive c).makeActive c h
    let s2 := s1.raise (keyEvent .keyChanged c (s.slot h).generation old 0)
    ((s2.evaluateRenewalDue c).evaluateHold c).noteExamination

/-- The group of a context, ascending (R84). -/
def Grouping.group : Grouping → Ctx → List Ctx
  | .solo, c => [c]
  | .pairs, c => if c.val < 2 then [0, 1] else [2, 3]
  | .all, _ => contextIds

/-- Has the context a staged head of mode WITH_GROUP (R91)? -/
def State.headWithGroup (s : State) (d : Ctx) : Bool :=
  match s.stagedHead d with
  | none => false
  | some h => decide ((s.slot h).mode = .withGroup)

/-- Group activation: the other contexts of the group with a WITH_GROUP staged
head change over, in ascending order (R91). -/
def State.groupActivation (s : State) (c : Ctx) : State :=
  (s.keys.grouping.group c).foldl
    (fun t d => if d ≠ c ∧ t.headWithGroup d = true then t.changeoverOnce d else t) s

/-- Has the context an AT_MARK staged head whose latch is set, so that its own
trigger applies (R118, R120)? -/
def State.headTriggers (s : State) (d : Ctx) : Bool :=
  match s.stagedHead d with
  | none => false
  | some h => decide ((s.slot h).mode = .atMark) && (s.slot h).activationLatch

/-- A changeover for a cause other than group activation, the group activation
that follows (R91), and then the changeovers of heads it promoted whose own
trigger applies at once, each with its own group activation (R120). Each
changeover takes one staged slot, so the fuel bounds nothing in practice. -/
def State.changeoverFuel : Nat → State → Ctx → State
  | 0, s, _ => s
  | n + 1, s, c =>
    if (s.stagedHead c).isNone then s
    else
      let changed := (s.keys.grouping.group c).filter fun d =>
        decide (d = c) || s.headWithGroup d
      changed.foldl
        (fun t d => if t.headTriggers d then State.changeoverFuel n t d else t)
        ((s.changeoverOnce c).groupActivation c)

/-- A changeover of a context with all that follows it (R89, R90, R91, R120). -/
def State.changeover (s : State) (c : Ctx) : State :=
  State.changeoverFuel 16 s c

/-- A staged generation has just become staged head by other means than a
changeover: its own trigger, then exhaustion of the ACTIVE generation (R88, R116, R120). -/
def State.headPromoted (s : State) (c : Ctx) : State :=
  let s1 := if s.headTriggers c then s.changeover c else s
  if s1.exhausted c then s1.changeover c else s1

/-! ### Opens and their consequences -/

/-- The open that makes the usage equal to the budget exhausts the generation (R88). -/
def State.exhaust (s : State) (c : Ctx) (i : SlotId) : State :=
  let k := s.slot i
  if k.usage = k.budget then
    let s1 :=
      if k.budgetExhaustedRaised then s
      else (s.updateSlot i fun k => { k with budgetExhaustedRaised := true }).raise
        (keyEvent .budgetExhausted c k.generation 0 0)
    s1.changeover c
  else s

/-- A slot opens a parcel: it issues its next sequence, and usage and reference
count go up by one (R7, R87). -/
def KeySlot.open (k : KeySlot) : KeySlot :=
  { k with nextSequence := k.nextSequence + 1, usage := k.usage + 1,
           references := k.references + 1 }

/-- What the key table applies after an open under slot i of context c, in order (R87). -/
def State.afterOpen (s : State) (c : Ctx) (i : SlotId) : State :=
  ((s.exhaust c i).evaluateRenewalDue c).evaluateHold c

/-! ### Marks reached -/

/-- The activation mark of slot i is reached: its latch is set, and if the slot
is its context's staged head a changeover follows (R118). -/
def State.activationReached (s : State) (i : SlotId) : State :=
  let c := (s.slot i).context
  let s1 := s.updateSlot i fun k => { k with activationLatch := true }
  if s.stagedHead c = some i then s1.changeover c else s1

/-- The expiry mark of slot i is reached: its latch is set (R79). An ACTIVE slot
expires (R93); once the slot has left ACTIVE its expiry does nothing further (R98). -/
def State.expiryReached (s : State) (i : SlotId) : State :=
  let c := (s.slot i).context
  let s1 := s.updateSlot i fun k => { k with expiryLatch := true }
  if (s.slot i).state ≠ .active then s1
  else if (s1.stagedHead c).isSome then s1.changeover c
  else
    let s2 := (s1.retireDraining c).startDraining c i
    (s2.raise (keyEvent .keyExpired c (s.slot i).generation 0 0)).evaluateHold c

/-- The renewal-due mark of slot i is reached: its latch is set (R79). For an ACTIVE
slot renewal due is evaluated (R94); once the slot has left ACTIVE there is no
RENEWAL_DUE (R98). -/
def State.renewalMarkReached (s : State) (i : SlotId) : State :=
  let c := (s.slot i).context
  let s1 := s.updateSlot i fun k => { k with renewalDueLatch := true }
  if (s.slot i).state ≠ .active then s1 else s1.evaluateRenewalDue c

/-- The drain deadline of DRAINING slot i is reached: the latch is set and the
slot leaves service (R92). -/
def State.drainReached (s : State) (i : SlotId) : State :=
  s.updateSlot i fun k => KeySlot.leaveService { k with drainLatch := true }

/-! ### Resolution -/

/-- Does slot i resolve an inbound generation of a context (R68, R80)? -/
def State.resolves (s : State) (context generation : Nat) (i : SlotId) : Bool :=
  let k := s.slot i
  decide (k.context.val = context) && decide (k.generation = generation) &&
    (match k.state with
     | .active => true
     | .draining => true
     | .staged => decide (k.mode = .onPeerUse) && decide (s.stagedHead k.context = some i)
     | .empty => false
     | .retiring => false)

/-- The slot an inbound head line resolves to (R68). -/
def State.resolve (s : State) (context generation : Nat) : Option SlotId :=
  usableSlots.find? fun i => s.resolves context generation i

/-! ### RETIRE, PURGE and SET_CONTEXT -/

/-- The slot of a context that holds a generation STAGED, ACTIVE or DRAINING (R95). -/
def State.retirable (s : State) (c : Ctx) (generation : Nat) : Option SlotId :=
  usableSlots.find? fun i =>
    let k := s.slot i
    decide (k.context = c) && decide (k.generation = generation) &&
      (decide (k.state = .staged) || decide (k.state = .active) || decide (k.state = .draining))

/-- RETIRE of slot i of context c (R95): the slot leaves service, KEY_RETIRED is
raised, before any record of a changeover it causes (log 39), a promoted head has its
trigger evaluated, renewal due is evaluated when
a staged entry's leaving empties the list, and HOLD is re-evaluated. -/
def State.retireSlot (s : State) (c : Ctx) (i : SlotId) : State :=
  let k := s.slot i
  let s1 := (s.updateSlot i KeySlot.leaveService).raise (keyEvent .keyRetired c k.generation 0 0)
  let s2 :=
    if k.state = .staged then
      if (s1.slotsIn c .staged).isEmpty then s1.evaluateRenewalDue c
      else if s.stagedHead c = some i then s1.headPromoted c
      else s1
    else s1
  s2.evaluateHold c

/-- How many usable slots are not EMPTY (R97). -/
def State.slotsHeld (s : State) : Nat :=
  (usableSlots.filter fun i => decide ((s.slot i).state ≠ .empty)).length

/-- Every usable slot becomes EMPTY and all four HOLD lines are asserted; floors,
settings and grouping are kept (R97). -/
def State.emptyAllSlots (s : State) : State :=
  let s1 := usableSlots.foldl (fun t i => t.updateSlot i fun _ => KeySlot.blank) s
  contextIds.foldl (fun t c => t.updateContext c fun r => { r with holdLine := true }) s1

/-- Clamp to an upper bound. -/
def atMost (bound n : Nat) : Nat :=
  if bound < n then bound else n

/-- The settings SET_CONTEXT gives context c, clamped (R82). -/
def clampSettings (c : Ctx) (drain parcels ticks low high silence : Nat) (fallback : Option Ctx) :
    Settings :=
  let lowMark := atMost 65535 low
  let highMark := atMost 65535 high
  { drainPeriod := if drain = 0 then 1 else atMost 65535 drain,
    reserveParcels := atMost 65535 parcels,
    reserveTicks := atMost 1073741824 ticks,
    holdLow := lowMark,
    holdHigh := if highMark < lowMark then lowMark else highMark,
    linkSilence := atMost 1073741824 silence,
    fallback := if fallback = some c then none else fallback }

/-- New settings of context c take effect in the key table: renewal-due mark,
renewal due, HOLD (R82). -/
def State.applySettings (s : State) (c : Ctx) (new : Settings) : State :=
  let s1 := s.updateContext c fun r => { r with settings := new }
  let s2 :=
    match s1.activeSlot c with
    | none => s1
    | some a =>
      if (s1.slot a).renewalDueRaised then s1
      else s1.setRenewalDueMark a ((s1.slot a).expiryMark - BitVec.ofNat 32 new.reserveTicks)
  (s2.evaluateRenewalDue c).evaluateHold c

end Sys2Proof.Machine
end

