-- ==== Sys2Proof/Machine/Parcels.lean ====
section
/-! DEFINITION. The parcel table: access outcomes, opening and freeing (chapter 1). -/

namespace Sys2Proof.Machine

/-- The two aliases of the upstream port (R41). -/
inductive Alias where
  | plain
  | raw
  deriving DecidableEq, Repr

/-- The outcome of a window piece (R23): refused, carried out with no cipher,
opening its parcel and then enciphered, enciphered, deciphered, a release write,
an arriving write, or a marker write. -/
inductive Decision where
  | refused (reason : RefusalReason)
  | passes
  | opens
  | enciphered
  | deciphered
  | releases
  | arrives
  | marks
  deriving DecidableEq, Repr

/-- The byte a write piece that starts at a line offset gives line byte j, none
where it has none or the enable is clear. -/
def enabledAt (start : Nat) (bytes : List (Option Byte)) (j : Nat) : Option Byte :=
  if j < start then none else bytes.getD (j - start) none

/-- A head-line write whose enabled bytes are exactly the arrival word, all zero (R22). -/
def isReleaseWrite (start : Nat) (bytes : List (Option Byte)) : Bool :=
  (List.range 32).all fun j =>
    decide (enabledAt start bytes j = if 28 ≤ j then some 0 else none)

/-- A head-line write that enables the whole arrival word and puts the marker there (R13). -/
def isMarkerWrite (start : Nat) (bytes : List (Option Byte)) : Bool :=
  decide ((List.range 4).map (fun j => enabledAt start bytes (28 + j)) =
    (leBytes 4 markerValue).map some)

/-- A release write where the state accepts one, HEAD_LINE otherwise (R22). -/
def releaseOrHeadLine (release : Bool) : Decision :=
  if release then .releases else .refused .headLine

/-- R23, plain alias, outbound window. -/
def decidePlainOutbound (role : Role) (head write : Bool) (st : ParcelState) (release : Bool) :
    Decision :=
  match head, write with
  | false, true =>
    if role = .data then
      (match st with
       | .free => .opens
       | .filling => .enciphered
       | _ => .refused .parcelBusy)
    else .refused .noticeArea
  | false, false => if st = .free then .refused .notOpen else .deciphered
  | true, true => if st = .sealed then releaseOrHeadLine release else .refused .headLine
  | true, false => .passes

/-- R23, raw alias, outbound window. -/
def decideRawOutbound (head write : Bool) (st : ParcelState) (release : Bool) : Decision :=
  match head, write with
  | _, false => .passes
  | false, true => .refused .outboundRaw
  | true, true => if st = .sealed then releaseOrHeadLine release else .refused .outboundRaw

/-- R23, plain alias, inbound window. -/
def decidePlainInbound (role : Role) (head write : Bool) (st : ParcelState) (release : Bool) :
    Decision :=
  match head, write with
  | false, false =>
    if role = .renewal then .refused .renewalArea
    else if st = .admitted then .deciphered else .refused .notAdmitted
  | true, false => .passes
  | false, true => .refused .inboundPlain
  | true, true =>
    match st with
    | .rejected => releaseOrHeadLine release
    | .admitted =>
      if role = .renewal ∧ release = true then .refused .parcelBusy else releaseOrHeadLine release
    | _ => .refused .inboundPlain

/-- R23, raw alias, inbound window. -/
def decideRawInbound (role : Role) (head write : Bool) (st : ParcelState)
    (release marker : Bool) : Decision :=
  match head, write with
  | _, false => .passes
  | false, true =>
    (match st with
     | .free => .arrives
     | .arriving => .arrives
     | _ => .refused .parcelBusy)
  | true, true =>
    match st with
    | .free => if marker then .marks else .arrives
    | .arriving => if marker then .marks else .arrives
    | .rejected => releaseOrHeadLine release
    | .admitted => if role = .renewal then .refused .parcelBusy else releaseOrHeadLine release
    | _ => .refused .parcelBusy

/-- The row of R23 that matches a window piece. -/
def decideAccess (side : Alias) (direction : Direction) (role : Role) (head write : Bool)
    (st : ParcelState) (release marker : Bool) : Decision :=
  match side, direction with
  | .plain, .outbound => decidePlainOutbound role head write st release
  | .raw, .outbound => decideRawOutbound head write st release
  | .plain, .inbound => decidePlainInbound role head write st release
  | .raw, .inbound => decideRawInbound role head write st release marker

/-- A record goes FREE: a present slot is handed back, the optional fields become
absent, both marks clear, and a NOTICE parcel is reported to the composer (R19). -/
def State.freeParcel (s : State) (w : WindowIndex) (p : Nat) : State :=
  match s.window w, s.parcel w p with
  | some e, some r =>
    let s1 :=
      match r.slot with
      | none => s
      | some i => s.updateSlot i KeySlot.dropReference
    let s2 := s1.updateParcel w p fun _ => ParcelRecord.blank
    if e.role = .notice then s2.noteExamination else s2
  | _, _ => s

/-- Open a FREE outbound parcel under the usable ACTIVE generation of a context;
none when there is none (R7, R8). -/
def State.openParcel (s : State) (w : WindowIndex) (p : Nat) (c : Ctx) (owner : Owner) :
    Option State :=
  match s.usableSlot c with
  | none => none
  | some i =>
    let s1 := s.updateParcel w p fun r =>
      { r with state := .filling, slot := some i, sequence := some (s.slot i).nextSequence,
               owner := some owner }
    some ((s1.updateSlot i KeySlot.open).afterOpen c i)

/-- The keystream of a run of bytes of a payload line of a parcel, under the slot
and sequence its record names, with the window's direction code (R27, R28, R45). -/
def State.parcelKeystream (s : State) (w : WindowIndex) (p line offset count : Nat) :
    List Byte :=
  match s.window w, s.parcel w p with
  | some e, some r =>
    match r.slot with
    | none => []
    | some i =>
      keystream (s.slot i).trafficKey (s.slot i).context.val e.direction.code
        (s.slot i).generation (r.sequence.getD 0) line offset count
  | _, _ => []

/-- Which window and parcel a downstream address lies in (R1). -/
def State.locate (s : State) (address : Nat) : Option (WindowIndex × Nat) :=
  windowIds.findSome? fun w =>
    match s.window w with
    | none => none
    | some e =>
      if e.base ≤ address ∧ address < e.base + 2048 * e.count then
        some (w, (address - e.base) / 2048)
      else none

end Sys2Proof.Machine
end

