-- ==== Sys2Proof/Machine/Faults.lean ====
section
/-! DEFINITION. The fault unit: records, the fault queue, refusal counters, posting, receipts, the counters image (chapter 7). -/

namespace Sys2Proof.Machine

/-- The records at office mark NO, oldest first (R145). -/
def State.recordsAtNo (s : State) : List FaultRecord :=
  s.fault.queue.filter fun r => decide (r.office = .no)

/-- Give the composer's gather mark its new value from the oldest record at NO;
its latch is judged by that record's age (R145). -/
def State.setGather (s : State) : State :=
  let mark :=
    match s.recordsAtNo with
    | [] => Mark.absent
    | r :: _ =>
      { value := some (ahead r.tick s.composer.gatherTime),
        latch := decide (s.composer.gatherTime ≤ r.age) }
  { s with composer := { s.composer with gather := mark } }

/-- One of the values of the counters image has changed: the image becomes stale and
a write is called for (R140), which the event of the change issues (log 35). -/
def State.countersChanged (s : State) : State :=
  { s with fault := { s.fault with countersStale := true, countersWanted := true } }

/-- A posting is started: the post fence is set and a posting is marked pending (R136). -/
def State.startPosting (s : State) : State :=
  { s with fault := { s.fault with postFence := true, postPending := true } }

/-- Re-evaluate ATTN (R139). -/
def State.evaluateAttn (s : State) : State :=
  { s with fault := { s.fault with attn := attnLevel s.fault.queue } }

/-- The ordinal after an ordinal: after 4,294,967,295 it becomes 1 (R125). -/
def nextOrdinalAfter (o : Nat) : Nat :=
  if 4294967295 ≤ o then 1 else o + 1

/-- The office mark of a record made now (R125). -/
def State.newOfficeMark (s : State) : OfficeMark :=
  if s.noticeWindow.isSome then .no else .notRequired

/-- The record an event makes now (R125). -/
def State.newRecord (s : State) (e : FaultEvent) : FaultRecord :=
  { ordinal := s.fault.nextOrdinal, event := e, tick := s.time.tick, age := 0,
    hostTaken := false, office := s.newOfficeMark }

/-- Make a record at the tail of the queue (R125): ATTN is re-evaluated, the
gather mark gets a value when no record stood at NO, a posting starts when
nothing is posted (R136) or the post is unsound (R138), and the composer has an
examination event (R146). -/
def State.makeRecord (s : State) (e : FaultEvent) : State :=
  let r := s.newRecord e
  let s1 := State.evaluateAttn { s with fault := { s.fault with
    queue := s.fault.queue ++ [r], nextOrdinal := nextOrdinalAfter s.fault.nextOrdinal } }
  let s2 := if s.recordsAtNo.isEmpty then s1.setGather else s1
  let s3 := if s.fault.posted.isNone || !s.fault.postSound then s2.startPosting else s2
  s3.noteExamination

/-- One more, stopping at a bound. -/
def countUp (bound n : Nat) : Nat :=
  if bound ≤ n then bound else n + 1

/-- A kind joins the overflow-kind set, which holds each kind at most once (R127). -/
def joinOverflow (kinds : List RecordKind) (k : RecordKind) : List RecordKind :=
  if k ∈ kinds then kinds else kinds ++ [k]

/-- An event meeting a full queue is lost (R127). -/
def State.loseEvent (s : State) (e : FaultEvent) : State :=
  State.countersChanged
    { s with fault := { s.fault with
        overflow := joinOverflow s.fault.overflow e.kind,
        lostSinceSummary := countUp 4294967295 s.fault.lostSinceSummary,
        lostTotal := countUp 4294967295 s.fault.lostTotal } }

/-- Has the fault queue room (R126)? -/
def State.queueHasRoom (s : State) : Bool :=
  decide (s.fault.queue.length < 8)

/-- The fault unit takes a fault event (R123): a record or a loss. -/
def State.takeEvent (s : State) (e : FaultEvent) : State :=
  if s.queueHasRoom then s.makeRecord e else s.loseEvent e

/-! ### Refusal counters -/

/-- The counters' indexes: windows 0 to 7, then the no-window counter. -/
def counterIds : List (Fin 9) :=
  [0, 1, 2, 3, 4, 5, 6, 7, 8]

/-- The no-window counter (R131). -/
def noWindowCounter : Fin 9 :=
  8

/-- The counter of a window table index (R131). -/
def windowCounter (w : WindowIndex) : Fin 9 :=
  w.castSucc

/-- A refusal counter. -/
def State.counter (s : State) (x : Fin 9) : RefusalCounter :=
  s.fault.counters[x]

/-- Give a refusal counter a value. -/
def State.setCounter (s : State) (x : Fin 9) (k : RefusalCounter) : State :=
  { s with fault := { s.fault with counters := s.fault.counters.set x k } }

/-- The REFUSED_ACCESS event of a counter (R132): detail A is not fixed when the
record is made. -/
def State.refusedAccessEvent (s : State) (x : Fin 9) (reason : RefusalReason)
    (parcel : Option Nat) : FaultEvent :=
  match index? 8 x.val with
  | none =>
    { kind := .refusedAccess, context := none, window := none, parcel := none,
      generation := none, detailA := 0, detailB := reason.code }
  | some w =>
    { kind := .refusedAccess, context := (s.window w).map fun e => e.context.val,
      window := some x.val, parcel := parcel, generation := none, detailA := 0,
      detailB := reason.code }

/-- One refused piece is reported (R131): the counter goes up; a run's first
refusal records its reason and parcel and raises REFUSED_ACCESS, whose record
the counter is linked to; a lost event returns the counter to 0. -/
def State.takeRefusal (s : State) (x : Fin 9) (reason : RefusalReason) (parcel : Option Nat) :
    State :=
  let k := s.counter x
  if k.value = 0 then
    let e := s.refusedAccessEvent x reason parcel
    if s.queueHasRoom then
      ((s.setCounter x
        { value := 1, firstReason := some reason, firstParcel := parcel,
          link := some s.fault.nextOrdinal }).makeRecord e).countersChanged
    else ((s.setCounter x RefusalCounter.zero).loseEvent e).countersChanged
  else (s.setCounter x { k with value := countUp 65535 k.value }).countersChanged

/-- The counter linked to a record, if any (R131); records are told apart by
ordinal alone (log 36). -/
def State.linkedCounter (s : State) (ordinal : Nat) : Option (Fin 9) :=
  counterIds.find? fun x => decide ((s.counter x).link = some ordinal)

/-- Detail A an image of a record shows at this moment: a linked REFUSED_ACCESS
record shows its counter's value (R132). -/
def State.imageDetailA (s : State) (r : FaultRecord) : Nat :=
  match s.linkedCounter r.ordinal with
  | none => r.event.detailA
  | some x => if r.event.kind = .refusedAccess then (s.counter x).value else r.event.detailA

/-- The image of a record at this moment (R132, R183). -/
def State.imageOf (s : State) (r : FaultRecord) : List Byte :=
  recordImage r (s.imageDetailA r)

/-- Freeze detail A of the record a counter is linked to (R131): of every record with
that ordinal (log 36). -/
def freezeRecord (ordinal value : Nat) (r : FaultRecord) : FaultRecord :=
  if r.ordinal = ordinal then { r with event := { r.event with detailA := value } } else r

/-- DEFINE_WINDOW makes entry x valid: its counter's value becomes 0, and a record
still linked to it keeps the value the counter held just before (R131). -/
def State.restartCounter (s : State) (x : Fin 9) : State :=
  let k := s.counter x
  let s1 :=
    match k.link with
    | none => s
    | some o =>
      { s with fault := { s.fault with queue := s.fault.queue.map (freezeRecord o k.value) } }
  let s2 := s1.setCounter x RefusalCounter.zero
  if k.value = 0 then s2 else s2.countersChanged

/-! ### Records that leave -/

/-- The condition under which a record leaves (R128). -/
def FaultRecord.leaves (r : FaultRecord) : Bool :=
  r.hostTaken && (decide (r.office = .yes) || decide (r.office = .notRequired))

/-- The SUMMARY event (R129). -/
def State.summaryEvent (s : State) : FaultEvent :=
  { kind := .summary, context := none, window := none, parcel := none, generation := none,
    detailA := s.fault.lostSinceSummary, detailB := overflowWord s.fault.overflow }

/-- When the overflow-kind set is not empty, a SUMMARY record takes the place just
freed; the set is emptied and the count becomes 0 (R129). -/
def State.summarise (s : State) : State :=
  if s.fault.overflow.isEmpty then s
  else
    let s1 := s.makeRecord s.summaryEvent
    State.countersChanged
      { s1 with fault := { s1.fault with overflow := [], lostSinceSummary := 0 } }

/-- The link of a counter to a record that leaves is cut and its value becomes 0
(R128, R131), found by the ordinal (log 36). -/
def State.cutCounter (s : State) (ordinal : Nat) : State :=
  match s.linkedCounter ordinal with
  | none => s
  | some x => (s.setCounter x RefusalCounter.zero).countersChanged

/-- The first record in queue order whose condition holds leaves (R128), and R129
is applied to the place it frees. -/
def State.removeNext (s : State) : State :=
  match s.fault.queue.find? FaultRecord.leaves with
  | none => s
  | some r =>
    let s1 := { s with fault := { s.fault with
      queue := s.fault.queue.eraseP FaultRecord.leaves } }
    (s1.cutCounter r.ordinal).summarise

/-- Records leave one after another, at most so many. -/
def State.leaveFuel : Nat → State → State
  | 0, s => s
  | n + 1, s => State.leaveFuel n s.removeNext

/-- The records whose condition holds leave one after another in queue order
(R128). A SUMMARY made meanwhile has not been taken, so it stays. -/
def State.leaveAll (s : State) : State :=
  State.leaveFuel s.fault.queue.length s

/-- Change the office mark of the records of some ordinals (R134). Two records that
have one ordinal after its wrap (R125) are both changed (log 36). -/
def State.markOffice (s : State) (ordinals : List Nat) (m : OfficeMark) : State :=
  { s with fault := { s.fault with
      queue := s.fault.queue.map fun r =>
        if r.ordinal ∈ ordinals then { r with office := m } else r } }

/-- A record at NO or IN_FLIGHT becomes NOT_REQUIRED (R133). -/
def FaultRecord.withdraw (r : FaultRecord) : FaultRecord :=
  if r.office = .no ∨ r.office = .inFlight then { r with office := .notRequired } else r

/-- The NOTICE window is cleared: records at NO or IN_FLIGHT become NOT_REQUIRED,
and those TAKEN leave (R133). -/
def State.noticeWindowCleared (s : State) : State :=
  State.leaveAll
    { s with fault := { s.fault with queue := s.fault.queue.map FaultRecord.withdraw } }

/-! ### Posting and receipts -/

/-- The better of two records to post: higher severity, and among those the older (R135). -/
def betterPost (best r : FaultRecord) : FaultRecord :=
  if best.event.kind.severity < r.event.kind.severity then r else best

/-- The record a posting chooses among those NOT_TAKEN (R135); the posted record
stays posted until it is receipted (R135, R138, log 15), known by its ordinal (log 36). -/
def State.choosePost (s : State) : Option FaultRecord :=
  let waiting := s.fault.queue.filter fun r => !r.hostTaken
  match waiting.find? (fun r => decide (s.fault.posted = some r.ordinal)) with
  | some r => some r
  | none =>
    match waiting with
    | [] => none
    | r :: rest => some (rest.foldl betterPost r)

/-- Issue the pending posting's write: the record is chosen and its image made at
this moment (R136). -/
def State.issuePost (s : State) : State :=
  let chosen := s.choosePost
  let image :=
    match chosen with
    | none => emptyImage
    | some r => s.imageOf r
  let s1 := { s with fault := { s.fault with
    posted := chosen.map FaultRecord.ordinal, postPending := false } }
  s1.want .post postAddress (wholeLine image) s.path.nextSerial

/-- Mark a record TAKEN (R137): every record with that ordinal (log 36). -/
def State.markTaken (s : State) (ordinal : Nat) : State :=
  { s with fault := { s.fault with
      queue := s.fault.queue.map fun r =>
        if r.ordinal = ordinal then { r with hostTaken := true } else r } }

/-- A receipt reaches the fault unit (R137): on a pending posting nothing changes;
an unsound post is written again (R138, log 13); a soundly posted record becomes
TAKEN, ATTN is re-evaluated, the record leaves if its office mark allows, and a
posting starts; with nothing posted the fence is set and cleared at once. -/
def State.takeReceipt (s : State) : State :=
  if s.fault.postPending then s
  else if !s.fault.postSound then s.startPosting
  else
    match s.fault.posted with
    | none => s
    | some o => ((s.markTaken o).evaluateAttn.leaveAll).startPosting

/-- Is a post write in the internal stream or waiting for room? -/
def State.postOutstanding (s : State) : Bool :=
  s.awaits (fun p => decide (p = .post)) ||
    s.path.unissued.any (fun r => decide (r.purpose = .post))

/-- A post write has completed (R136, R138): the post is sound or unsound by its
end; the fence clears unless another posting has started meanwhile (log 14); the
first clearing after start-up lets the counters image be written (R141). -/
def State.postWritten (s : State) (error : Bool) : State :=
  let fence := s.fault.postPending || s.postOutstanding
  { s with fault := { s.fault with
      postSound := !error,
      postFence := fence,
      countersWanted := s.fault.countersWanted || !s.fault.countersArmed,
      countersArmed := s.fault.countersArmed || !fence } }

/-- A counters write has completed (R140): after an error the image is left stale
with no write called for. -/
def State.countersWritten (s : State) (error : Bool) : State :=
  if error then
    { s with fault := { s.fault with
        countersWriting := false, countersStale := true, countersWanted := false } }
  else { s with fault := { s.fault with countersWriting := false } }

/-- The counters image as it stands (R140). -/
def State.countersImage (s : State) : List Byte :=
  countersLine s.fault.lostTotal s.fault.lostSinceSummary s.composer.published
    (counterIds.map fun x => (s.counter x).value)

/-- Is a counters write called for and free to be issued (R140, R141)? It takes a
place only when one is left free by every request that waits (log 34). A part that is
not running issues nothing (R57). -/
def State.countersIssuable (s : State) : Bool :=
  decide (s.mode = .running) && s.fault.countersArmed && s.fault.countersWanted &&
    !s.fault.countersWriting && decide (s.internalCount + s.path.unissued.length < 16)

/-- Issue the counters write when one is called for and free to be issued, with the
values as they stand at this moment; the image becomes current, and a later change
leaves it stale until the write has completed (R140). -/
def State.issueCounters (s : State) : State :=
  if s.countersIssuable then
    { s with
      path := { s.path with unissued := s.path.unissued ++
        [{ purpose := .counters, ignored := false, address := countersAddress,
           access := wholeLine s.countersImage, orderPoint := s.path.nextSerial }] },
      fault := { s.fault with
        countersStale := false, countersWanted := false, countersWriting := true } }
  else s

/-- One tick event ages every record; ages stop at 65,535 (R125). -/
def State.ageRecords (s : State) : State :=
  { s with fault := { s.fault with
      queue := s.fault.queue.map fun r => { r with age := countUp 65535 r.age } } }

end Sys2Proof.Machine
end

