-- ==== Sys2Proof/Machine/Composer.lean ====
section
/-! DEFINITION. The notice composer: examination, start, publication and failure of notices (chapter 8); and how a step hands its reports on. -/

namespace Sys2Proof.Machine

/-- Can a context carry a notice: a usable ACTIVE generation and a clear silent flag (R148)? -/
def State.carriesNotice (s : State) (c : Ctx) : Bool :=
  (s.usableSlot c).isSome && !(s.time.links[c]).silent

/-- The context of a notice that starts now, w being the window's context field (R148). -/
def State.chooseContext (s : State) (w : Ctx) : Option Ctx :=
  if s.carriesNotice w then some w
  else
    match (s.context w).settings.fallback with
    | none => none
    | some f => if s.carriesNotice f then some f else none

/-- Condition 2 of R147: no retry mark is pending. -/
def State.retryClear (s : State) : Bool :=
  s.composer.retry.value.isNone || s.composer.retry.latch

/-- Conditions 3 and 4 of R147: records at NO, and enough of them, an ALERT among
them, or the gather mark's latch set. -/
def State.recordsCall (s : State) : Bool :=
  let waiting := s.recordsAtNo
  !waiting.isEmpty &&
    (decide (4 ≤ waiting.length) || waiting.any (fun r => decide (r.event.kind.severity = 3)) ||
      s.composer.gather.latch)

/-- The write of the k-th carried image, from 0: payload line k + 1, enciphered,
every byte enabled (R150, R31). -/
def State.imageWrite (s : State) (w : WindowIndex) (e : Window) (p : Nat)
    (image : List Byte) (k : Nat) : InternalRequest :=
  { purpose := .noticeImage, ignored := false, address := e.address p (32 * (k + 1)),
    access := wholeLine (applyKeystream image (s.parcelKeystream w p (k + 1) 0 32)),
    orderPoint := s.path.nextSerial }

/-- A notice starts under a context (R149): it opens the parcel at the ring
position, takes up to four records IN_FLIGHT with their images, gives the gather
mark its new value, enters WRITING and issues the image writes. -/
def State.startNotice (s : State) (w : WindowIndex) (e : Window) (c : Ctx) : State :=
  let p := s.composer.ring
  match s.openParcel w p c .composer with
  | none => s
  | some s1 =>
    let carried := s1.recordsAtNo.take 4
    let ordinals := carried.map FaultRecord.ordinal
    let writes := (carried.map s1.imageOf).zipIdx.map fun ik => s1.imageWrite w e p ik.1 ik.2
    let s2 := (s1.markOffice ordinals .inFlight).setGather
    let s3 := { s2 with composer := { s2.composer with
      phase := .writing,
      notice := some { parcel := p, context := c, ordinals := ordinals,
                       writesLeft := ordinals.length } } }
    s3.wantAll writes

/-- Condition 5 of R147: the parcel at the ring position is FREE. -/
def State.ringParcelFree (s : State) (w : WindowIndex) : Bool :=
  match s.parcel w s.composer.ring with
  | none => false
  | some r => decide (r.state = .free)

/-- The composer examines its start conditions (R146, R147). -/
def State.examine (s : State) : State :=
  if s.composer.phase ≠ .idle then s
  else
    match s.noticeWindow with
    | none => s
    | some w =>
      match s.window w with
      | none => s
      | some e =>
        if s.retryClear && s.recordsCall && s.ringParcelFree w then
          match s.chooseContext e.context with
          | none => s
          | some c => s.startNotice w e c
        else s

/-- Examine if an examination event has happened (R146). -/
def State.runExamination (s : State) : State :=
  if s.transit.examine then
    State.examine { s with transit := { s.transit with examine := false } }
  else s

/-- The fault unit takes one report (R123, R131). -/
def State.takeReport (s : State) : Report → State
  | .event e => s.takeEvent e
  | .refusal x reason parcel => s.takeRefusal x reason parcel

/-- The fault unit takes the reports in transit one after another, each at an event
of its own that issues the counters write it calls for (R123, R131, R140); the
composer examines after each that calls for it (R146). -/
def State.drainReports (s : State) : State :=
  s.transit.reports.foldl (fun t r => (t.takeReport r).issueCounters.runExamination)
    { s with transit := { s.transit with reports := [] } }

/-- What a step hands on reaches the fault unit and the composer (log 16): its
reports, the examination they or the step call for, and the reports of a notice
that this starts. A part that is not running takes no further event (R57). -/
def State.settle (s : State) : State :=
  let s1 := if s.mode = .running then s.drainReports.runExamination.drainReports else s
  { s1 with transit := Transit.empty }

/-! ### The end of a notice -/

/-- The ring position moves forward by one, back to 0 after the last parcel (R144, R152). -/
def State.nextRing (s : State) : Nat :=
  match s.noticeWindow with
  | none => 0
  | some w =>
    match s.window w with
    | none => 0
    | some e => if e.count ≤ s.composer.ring + 1 then 0 else s.composer.ring + 1

/-- A notice's seal has completed (R152). -/
def State.noticeSealed (s : State) : State :=
  match s.composer.notice with
  | none => s
  | some n =>
    let s1 := ((s.markOffice n.ordinals .yes).leaveAll).countersChanged
    let s2 := { s1 with composer := { s1.composer with
      published := (s1.composer.published + 1) % 4294967296, ring := s1.nextRing,
      notice := none, phase := .idle } }
    s2.noteExamination

/-- Ticks from a failure to the retry mark: the gather time, or 1 when it is 0 (R154). -/
def State.retryTicks (s : State) : Nat :=
  if s.composer.gatherTime = 0 then 1 else s.composer.gatherTime

/-- A notice fails (R154, R155): its records return to NO, the gather mark takes
its new value, the composer enters IDLE at the same ring position, and after a
downstream error the retry mark is set. -/
def State.noticeFailed (s : State) (retry : Bool) : State :=
  match s.composer.notice with
  | none => s
  | some n =>
    let s1 := (s.markOffice n.ordinals .no).setGather
    { s1 with composer := { s1.composer with
        notice := none, phase := .idle,
        retry := if retry then Mark.set (ahead s.time.tick s.retryTicks) else s1.composer.retry } }

/-- Definition of the NOTICE window reported to the composer (R143). -/
def State.composerDefined (s : State) : State :=
  State.noteExamination { s with composer := { s.composer with ring := 0 } }

/-- Clearing of the NOTICE window reported to the composer (R143). -/
def State.composerCleared (s : State) : State :=
  State.setGather { s with composer := { s.composer with ring := 0, retry := Mark.absent } }

/-- SET_NOTICE replaces the gather time, clamped, and gives the gather mark its
new value (R147). -/
def State.setGatherTime (s : State) (n : Nat) : State :=
  (State.setGather
    { s with composer := { s.composer with gatherTime := atMost 65535 n } }).noteExamination

end Sys2Proof.Machine
end

