-- ==== Sys2Proof/Machine/Streams.lean ====
section
/-! DEFINITION. The internal stream, the arbiter and completions (R51 to R54); how a step ends. -/

namespace Sys2Proof.Machine

/-- Waiting requests enter the internal stream as room allows (R51). -/
def State.issueWaiting (s : State) : State :=
  let room := 16 - s.internalCount
  { s with path := { s.path with
      internal := s.path.internal ++ s.path.unissued.take room,
      unissued := s.path.unissued.drop room } }

/-- Blocks issue what they have to issue (R51): a counters write that a full stream
has kept waiting, once every waiting request has room and a place is left (log 34),
and the waiting requests in their order (log 11). A pending post write is issued by a
step of its own (log 37). A part that is not running issues nothing (R57). -/
def State.pump (s : State) : State :=
  if s.mode = .running then s.issueCounters.issueWaiting else s

/-- How a step ends: its reports are taken, each at an event of its own (R123, R131),
then its requests are issued. -/
def State.finish (s : State) : State :=
  s.settle.pump

/-- Has a write piece placed before an order point not yet completed (R52)? -/
def State.writePending (s : State) (orderPoint : Nat) : Bool :=
  s.path.passing.any (fun p => p.access.isWrite && decide (p.serial < orderPoint)) ||
    s.path.flight.any fun f =>
      match f with
      | .passing p => p.access.isWrite && decide (p.serial < orderPoint)
      | .internal _ => false

/-- Is an internal request at the head of its stream eligible for the port (R52)? -/
def State.eligible (s : State) (r : InternalRequest) : Bool :=
  r.access.isWrite || !s.writePending r.orderPoint

/-- Grant the passing head; the turn passes to the internal stream (R53). -/
def State.grantPassing (s : State) (p : Piece) (rest : List Piece) : State :=
  { s with path := { s.path with
      passing := rest, flight := s.path.flight ++ [.passing p], turn := .internal } }

/-- Grant the internal head; the turn passes to the passing stream (R53). -/
def State.grantInternal (s : State) (r : InternalRequest) (rest : List InternalRequest) : State :=
  { s with path := { s.path with
      internal := rest, flight := s.path.flight ++ [.internal r], turn := .passing } }

/-- The arbiter's choice (R53): the only one waiting, or the one whose turn it is;
an internal head that is not eligible does not count as waiting. -/
def State.grant (s : State) : State :=
  match s.path.passing, s.path.internal with
  | [], [] => s
  | p :: rest, [] => s.grantPassing p rest
  | [], r :: rest => if s.eligible r then s.grantInternal r rest else s
  | p :: prest, r :: rrest =>
    if !s.eligible r || decide (s.path.turn = .passing) then s.grantPassing p prest
    else s.grantInternal r rrest

/-- The oldest granted access, when it is an internal request for one of the
purposes: it completes (R49, R54), memory takes a write's effect, and a read's
bytes are handed over. -/
def State.completeInternal (s : State) (purposes : Purpose → Bool) (error : Bool) :
    Option (InternalRequest × List Byte × State) :=
  match s.path.flight with
  | .internal r :: rest =>
    if purposes r.purpose then
      some (r, s.returned r.address r.access,
        ({ s with path := { s.path with flight := rest } }).complete r.address r.access error)
    else none
  | _ => none

/-- A step that is the completion of an internal request: it happens when such a
request is the oldest granted access, and nothing happens otherwise (log 4). Its
issuer acts on the result unless it has discarded the work (R54). A change of a
counter value that this makes calls for a counters write there (R140, log 35). -/
def State.onCompletion (s : State) (purposes : Purpose → Bool) (error : Bool)
    (act : List Byte → State → State) : Host.Outcome State Fault Refusal :=
  match s.completeInternal purposes error with
  | none => .next s
  | some (r, data, s1) =>
    .next (if r.ignored then s1 else (act data s1).issueCounters).finish

/-- One purpose. -/
def only (p : Purpose) (q : Purpose) : Bool :=
  decide (q = p)

end Sys2Proof.Machine
end

