-- ==== Sys2Proof/Machine/Timebase.lean ====
section
/-! DEFINITION. The timebase: heartbeat and link-silence watches, mark reports and the tick event (chapter 9). -/

namespace Sys2Proof.Machine

/-- A fault event of the timebase: at most a context, both details 0 (R166). -/
def watchEvent (kind : RecordKind) (context : Option Nat) : FaultEvent :=
  { kind := kind, context := context, window := none, parcel := none, generation := none,
    detailA := 0, detailB := 0 }

/-- Restart a watch's mark from now (R161, R164). -/
def Watch.restart (w : Watch) (now : Tick) : Watch :=
  { w with mark := Mark.set (ahead now w.period) }

/-- Set the heartbeat watch. -/
def State.setHeartbeatWatch (s : State) (w : Watch) : State :=
  { s with time := { s.time with heartbeat := w } }

/-- A link-silence watch. -/
def State.link (s : State) (c : Ctx) : Watch :=
  s.time.links[c]

/-- Set a link-silence watch. -/
def State.setLink (s : State) (c : Ctx) (w : Watch) : State :=
  { s with time := { s.time with links := s.time.links.set c w } }

/-- A heartbeat reaches the timebase (R161): nothing when the watch is off; else
the mark restarts, and a set silent flag clears with CONTROLLER_RESUMED. -/
def State.takeHeartbeat (s : State) : State :=
  let w := s.time.heartbeat
  if w.period = 0 then s
  else
    let s1 := s.setHeartbeatWatch { w.restart s.time.tick with silent := false }
    if w.silent then s1.raise (watchEvent .controllerResumed none) else s1

/-- SET_HEARTBEAT takes effect, its period clamped to 2^30 (R160). -/
def State.applyHeartbeatPeriod (s : State) (period : Nat) : State :=
  let p := atMost 1073741824 period
  let w := s.time.heartbeat
  if p = 0 then
    let s1 := s.setHeartbeatWatch Watch.off
    if w.silent then s1.raise (watchEvent .controllerResumed none) else s1
  else s.setHeartbeatWatch (Watch.restart { w with period := p } s.time.tick)

/-- The heartbeat mark is reached: the silent flag is set, CONTROLLER_SILENT is
raised and the mark loses its value (R162). -/
def State.heartbeatReached (s : State) : State :=
  let w := s.time.heartbeat
  (s.setHeartbeatWatch { w with mark := Mark.absent, silent := true }).raise
    (watchEvent .controllerSilent none)

/-- An admission of an inbound DATA parcel of context c (R164). -/
def State.linkAdmission (s : State) (c : Ctx) : State :=
  let w := s.link c
  if w.period = 0 then s
  else
    let s1 := s.setLink c { w.restart s.time.tick with silent := false }
    if w.silent then (s1.raise (watchEvent .linkResumed (some c.val))).noteExamination else s1

/-- The link silence period of a SET_CONTEXT for c is handed over (R163). -/
def State.applyLinkPeriod (s : State) (c : Ctx) (period : Nat) : State :=
  let w := s.link c
  if period = 0 then
    let s1 := s.setLink c Watch.off
    if w.silent then (s1.raise (watchEvent .linkResumed (some c.val))).noteExamination else s1
  else s.setLink c (Watch.restart { w with period := period } s.time.tick)

/-- The link-silence mark of context c is reached (R165). -/
def State.linkSilenceReached (s : State) (c : Ctx) : State :=
  let w := s.link c
  ((s.setLink c { w with mark := Mark.absent, silent := true }).raise
    (watchEvent .linkSilent (some c.val))).noteExamination

/-- The gather mark is reached: its latch is set and the composer examines (R145). -/
def State.gatherReached (s : State) : State :=
  State.noteExamination
    { s with composer := { s.composer with gather := { s.composer.gather with latch := true } } }

/-- The retry mark is reached: its latch is set and the composer examines (R154). -/
def State.retryReached (s : State) : State :=
  State.noteExamination
    { s with composer := { s.composer with retry := { s.composer.retry with latch := true } } }

/-- The mark reports the timebase can make (R158). -/
inductive MarkReport where
  | activation (slot : SlotId)
  | expiry (slot : SlotId)
  | renewalDue (slot : SlotId)
  | drain (slot : SlotId)
  | gather
  | retry
  | heartbeat
  | link (context : Ctx)
  deriving DecidableEq, Repr

/-- Is a mark watched with the reached test holding for it, so that its report is
due? The null slot has no marks (R158, R78). -/
def State.reportDue (s : State) : MarkReport → Bool
  | .activation i => decide (i ≠ 0) && s.activationDue i
  | .expiry i => decide (i ≠ 0) && s.expiryDue i
  | .renewalDue i => decide (i ≠ 0) && s.renewalMarkDue i
  | .drain i => decide (i ≠ 0) && s.drainDue i
  | .gather => s.composer.gather.due s.time.tick
  | .retry => s.composer.retry.due s.time.tick
  | .heartbeat => s.time.heartbeat.mark.due s.time.tick
  | .link c => (s.link c).mark.due s.time.tick

/-- The owner of a mark acts on its report (R158's table of marks). -/
def State.actOnReport (s : State) : MarkReport → State
  | .activation i => s.activationReached i
  | .expiry i => s.expiryReached i
  | .renewalDue i => s.renewalMarkReached i
  | .drain i => s.drainReached i
  | .gather => s.gatherReached
  | .retry => s.retryReached
  | .heartbeat => s.heartbeatReached
  | .link c => s.linkSilenceReached c

/-- Deliver a mark report to a running part if it is due (log 4). -/
def State.deliver (s : State) (m : MarkReport) : State :=
  if s.mode = .running ∧ s.reportDue m = true then (s.actOnReport m).finish else s

/-- Every mark report, in the order in which those still due are made before the
next tick event (log 5). -/
def allReports : List MarkReport :=
  usableSlots.flatMap (fun i => [.activation i, .expiry i, .renewalDue i, .drain i]) ++
    [.gather, .retry, .heartbeat] ++ contextIds.map .link

/-- A tick event (R157): the count goes up by one, wrapping, and every standing
record's age goes up (R125). The marks for which the test now holds are due. -/
def State.advanceTick (s : State) : State :=
  State.ageRecords { s with time := { s.time with tick := s.time.tick + 1 } }

/-- The owners of marks reached at an earlier tick event are told before the next
one (log 5). -/
def State.deliverAll (s : State) : State :=
  allReports.foldl State.deliver s

/-! ### Meanings -/

/-- TICK (R157). -/
def execTick (s : State) : Host.Outcome State Fault Refusal :=
  if s.mode = .running then .next s.deliverAll.advanceTick else .next s

/-- ACTIVATION_MARK_REACHED (R118). -/
def execActivationMarkReached (i : SlotId) (s : State) : Host.Outcome State Fault Refusal :=
  .next (s.deliver (.activation i))

/-- EXPIRY_MARK_REACHED (R93). -/
def execExpiryMarkReached (i : SlotId) (s : State) : Host.Outcome State Fault Refusal :=
  .next (s.deliver (.expiry i))

/-- RENEWAL_DUE_MARK_REACHED (R94). -/
def execRenewalDueMarkReached (i : SlotId) (s : State) : Host.Outcome State Fault Refusal :=
  .next (s.deliver (.renewalDue i))

/-- DRAIN_DEADLINE_REACHED (R92). -/
def execDrainDeadlineReached (i : SlotId) (s : State) : Host.Outcome State Fault Refusal :=
  .next (s.deliver (.drain i))

/-- GATHER_MARK_REACHED (R145). -/
def execGatherMarkReached (s : State) : Host.Outcome State Fault Refusal :=
  .next (s.deliver .gather)

/-- RETRY_MARK_REACHED (R154). -/
def execRetryMarkReached (s : State) : Host.Outcome State Fault Refusal :=
  .next (s.deliver .retry)

/-- HEARTBEAT_MARK_REACHED (R162). -/
def execHeartbeatMarkReached (s : State) : Host.Outcome State Fault Refusal :=
  .next (s.deliver .heartbeat)

/-- LINK_SILENCE_MARK_REACHED (R165). -/
def execLinkSilenceMarkReached (c : Ctx) (s : State) : Host.Outcome State Fault Refusal :=
  .next (s.deliver (.link c))

/-- HEARTBEAT: the command unit's report of an accepted write of the heartbeat
word reaches the timebase (R161, log 6). -/
def execHeartbeat (s : State) : Host.Outcome State Fault Refusal :=
  if s.mode = .running then .next s.takeHeartbeat.finish else .next s

end Sys2Proof.Machine
end

