-- ==== Sys2Proof/Machine/Renewal.lean ====
section
/-! DEFINITION. The renewal unit: imports, import checks and staging (chapter 6). -/

namespace Sys2Proof.Machine

/-- Reasons of RENEWAL_REFUSED, in the order of their codes (section 11.4). -/
inductive RenewalReason where
  | mismatch
  | badTerms
  | oldGeneration
  | badCheck
  | stagedFull
  | noSlot
  deriving DecidableEq, Repr

/-- The code of a renewal refusal reason (section 11.4). -/
def RenewalReason.code : RenewalReason → Nat
  | .mismatch => 1
  | .badTerms => 2
  | .oldGeneration => 3
  | .badCheck => 4
  | .stagedFull => 5
  | .noSlot => 6

/-- An import starts when none is in progress and the list is not empty (R108):
two reads of the head parcel, payload lines 1 and 2. -/
def State.startImport (s : State) : State :=
  match s.renewal.importing, s.renewal.importList with
  | none, entry :: _ =>
    match s.window entry.window with
    | none => s
    | some e =>
      let s1 := { s with renewal := { s.renewal with
        importing := some { data := [], readsLeft := 2 } } }
      (s1.want .importRead (e.address entry.parcel 32) (.read 32) s.path.nextSerial).want
        .importRead (e.address entry.parcel 64) (.read 32) s.path.nextSerial
  | _, _ => s

/-- An ADMITTED renewal parcel joins the tail of the import list (R107, R108). -/
def State.joinImportList (s : State) (entry : ImportEntry) : State :=
  State.startImport
    { s with renewal := { s.renewal with importList := s.renewal.importList ++ [entry] } }

/-- The end of an import: the parcel goes FREE, leaves the list, and the
next import starts (R105, R115). -/
def State.endImport (s : State) (entry : ImportEntry) : State :=
  let s1 := s.freeParcel entry.window entry.parcel
  State.startImport
    { s1 with renewal := { s1.renewal with
        importing := none, importList := s1.renewal.importList.drop 1 } }

/-- A record of the renewal unit about an import (R122). -/
def importEvent (kind : RecordKind) (entry : ImportEntry) (context generation a b : Nat) :
    FaultEvent :=
  { kind := kind, context := some context, window := some entry.window.val,
    parcel := some entry.parcel, generation := some generation, detailA := a, detailB := b }

/-- The traffic key of a renewal record under the wrap key copy (R111). -/
def State.unwrapped (s : State) (r : RenewalRecord) : Key :=
  unwrapKey s.renewal.wrapKey r.wrapped1 r.wrapped2

/-- The lowest-numbered EMPTY slot among 1 to 15 (R113 step 1). -/
def State.emptySlot (s : State) : Option SlotId :=
  usableSlots.find? fun i => decide ((s.slot i).state = .empty)

/-- What the seven import checks give: the reason of the first that fails, or the
context, mode and slot to stage with (R110). -/
def State.importChecks (s : State) (entry : ImportEntry) (r : RenewalRecord) :
    RenewalReason ⊕ (Ctx × ActivationMode × SlotId) :=
  if r.context ≠ entry.context ∨ r.generation ≠ entry.generation then .inl .mismatch
  else
    match index? 4 r.context with
    | none => .inl .mismatch
    | some c =>
      match modeOf? r.mode with
      | none => .inl .badTerms
      | some m =>
        if r.generation ≤ (s.context c).floor then .inl .oldGeneration
        else if r.budget = 0 then .inl .badTerms
        else if checkValueOf (s.unwrapped r) ≠ r.checkValue then .inl .badCheck
        else if 2 ≤ (s.slotsIn c .staged).length then .inl .stagedFull
        else
          match s.emptySlot with
          | none => .inl .noSlot
          | some i => .inr (c, m, i)

/-- The lifetime as staged (R112). -/
def clampLifetime (n : Nat) : Nat :=
  if n = 0 then 1073741824 else atMost 1073741824 n

/-- The activation mark and its latch as staged (R112). -/
def stagedMark (now : Tick) (mode : ActivationMode) (carried : Nat) : Tick × Bool :=
  match mode with
  | .atMark =>
    let mark : Tick := BitVec.ofNat 32 carried
    if reached now mark then (mark, true)
    else if (mark - now).toNat ≤ 1073741824 then (mark, false)
    else (ahead now 1073741824, false)
  | .atOnce => (0, false)
  | .onPeerUse => (0, false)
  | .withGroup => (0, false)

/-- The staged slot (R113 step 1, R112). -/
def State.stagedSlot (s : State) (c : Ctx) (m : ActivationMode) (r : RenewalRecord) : KeySlot :=
  let key := s.unwrapped r
  let mark := stagedMark s.time.tick m r.activationMark
  { KeySlot.blank with
    state := .staged, context := c, generation := r.generation, trafficKey := key,
    hashKey := hashKeyOf key, checkValue := r.checkValue, mode := m, activationMark := mark.1,
    activationLatch := mark.2, budget := atMost 16777215 r.budget, nextSequence := 1,
    lifetime := clampLifetime r.lifetime }

/-- An AT_ONCE staging discards the context's other STAGED entries (R96, R114). -/
def State.discardStaged (s : State) (c : Ctx) (new : SlotId) : State :=
  (s.slotsIn c .staged).foldl
    (fun t i => if i = new then t else t.updateSlot i KeySlot.leaveService) s

/-- Staging, steps 1 to 5 (R113, R114, R116). -/
def State.stage (s : State) (entry : ImportEntry) (r : RenewalRecord) (c : Ctx)
    (m : ActivationMode) (i : SlotId) : State :=
  let s1 := s.updateSlot i fun _ => s.stagedSlot c m r
  let s2 := s1.updateContext c fun row => { row with floor := r.generation }
  let s3 := s2.raise (importEvent .keyAccepted entry r.context r.generation r.checkValue i.val)
  match m with
  | .atOnce => (s3.discardStaged c i).changeover c
  | _ => if s3.stagedHead c = some i then s3.headPromoted c else s3

/-- The check event of an import (R110, R113, R115). -/
def State.importEnds (s : State) (entry : ImportEntry) (data : List Byte) : State :=
  let r := renewalRecordOf data
  let s1 :=
    match s.importChecks entry r with
    | .inl reason =>
      s.raise (importEvent .renewalRefused entry entry.context entry.generation reason.code 0)
    | .inr (c, m, i) => s.stage entry r c m i
  s1.endImport entry

/-- An import read has returned (R108, R109, R110). -/
def State.importReadReturned (error : Bool) (data : List Byte) (s : State) : State :=
  match s.renewal.importing, s.renewal.importList with
  | some run, entry :: _ =>
    if error then
      ((s.discard (only .importRead)).raise
        (importEvent .memoryError entry entry.context entry.generation importCode 0)).endImport
          entry
    else if run.readsLeft ≤ 1 then s.importEnds entry (run.data ++ data)
    else
      { s with renewal := { s.renewal with
          importing := some { data := run.data ++ data, readsLeft := run.readsLeft - 1 } } }
  | _, _ => s

/-- IMPORT_READ_DONE (R108 to R116). -/
def execImportReadDone (error : Bool) (s : State) : Host.Outcome State Fault Refusal :=
  s.onCompletion (only .importRead) error (State.importReadReturned error)

end Sys2Proof.Machine
end

