-- ==== Sys2Proof/Machine/TagEngine.lean ====
section
/-! DEFINITION. The tag engine: queue, deferred list, seals, checks and renewal checks (chapter 4). -/

namespace Sys2Proof.Machine

/-- Is the purpose one of the tag engine's (R51)? -/
def tagPurpose : Purpose → Bool
  | .sealRead => true
  | .headWrite => true
  | .checkHead => true
  | .checkPayload => true
  | .renewalHead => true
  | .renewalPayload => true
  | .startUpResult => false
  | .argument => false
  | .result => false
  | .snapshotEntry => false
  | .snapshotHeader => false
  | .importRead => false
  | .post => false
  | .counters => false
  | .noticeImage => false

/-- A fault event of the tag engine about a job's parcel (R72, R76). -/
def tagEvent (kind : RecordKind) (j : Job) (context generation : Option Nat) (a b : Nat) :
    FaultEvent :=
  { kind := kind, context := context, window := some j.window.val, parcel := some j.parcel,
    generation := generation, detailA := a, detailB := b }

/-- The context field of a job's window. -/
def State.windowContext (s : State) (w : WindowIndex) : Option Nat :=
  (s.window w).map fun e => e.context.val

/-- The generation of a record's slot, where it holds one. -/
def State.recordGeneration (s : State) (r : ParcelRecord) : Option Nat :=
  r.slot.map fun i => (s.slot i).generation

/-- The context of a record's slot, where it holds one. -/
def State.recordContext (s : State) (r : ParcelRecord) : Option Nat :=
  r.slot.map fun i => (s.slot i).context.val

/-! ### Queue, running job and deferred list (R58 to R62) -/

/-- Has the tag job queue a free entry (R58)? -/
def State.jobRoom (s : State) : Bool :=
  decide (s.tag.queue.length < 16)

/-- A job enters the queue at its tail (R59). -/
def State.enqueue (s : State) (j : Job) : State :=
  { s with tag := { s.tag with queue := s.tag.queue ++ [j] } }

/-- The running job, or none. -/
def State.setRunning (s : State) (run : Option Running) : State :=
  { s with tag := { s.tag with running := run } }

/-- The kind of job an inbound parcel's window gives it (R13). -/
def State.checkKind (s : State) (w : WindowIndex) : JobKind :=
  match s.window w with
  | none => .check
  | some e => if e.role = .renewal then .checkRenewal else .check

/-- The seal hand-off: the record takes its length and becomes SEALING (R9). -/
def State.handOff (s : State) (w : WindowIndex) (p length : Nat) : State :=
  s.updateParcel w p fun r => { r with state := .sealing, length := some length }

/-- The composer enters a phase (R142). -/
def State.setPhase (s : State) (phase : ComposerPhase) : State :=
  { s with composer := { s.composer with phase := phase } }

/-- A free entry is given to the deferred head, else to the composer's waiting
seal, else it stays free (R61). -/
def State.giveEntry (s : State) : State :=
  if s.jobRoom then
    match s.tag.deferred with
    | (w, p) :: rest =>
      let s1 := { s with tag := { s.tag with deferred := rest } }
      (s1.updateParcel w p fun r => { r with deferred := false }).enqueue
        { window := w, parcel := p, kind := s.checkKind w, orderPoint := s.path.nextSerial }
    | [] =>
      match s.tag.waitingSeal with
      | none => s
      | some ws =>
        let s1 := { s with tag := { s.tag with waitingSeal := none } }
        ((s1.handOff ws.window ws.parcel ws.length).setPhase .sealing).enqueue
          { window := ws.window, parcel := ws.parcel, kind := .sealNotice,
            orderPoint := s.path.nextSerial }
  else s

/-- Free entries are given one after another; the queue has at most sixteen (R61). -/
def State.giveEntries : Nat → State → State
  | 0, s => s
  | n + 1, s => State.giveEntries n s.giveEntry

/-- The reads of payload lines 1 to `lines`, each with the job's order point (R63, R69). -/
def payloadReads (purpose : Purpose) (e : Window) (p lines orderPoint : Nat) :
    List InternalRequest :=
  (List.range lines).map fun k =>
    { purpose := purpose, ignored := false, address := e.address p (32 * (k + 1)),
      access := .read 32, orderPoint := orderPoint }

/-- A started job issues its first requests: payload reads of a seal (R63), the
head-line read of a check (R66). -/
def State.beginJob (s : State) (j : Job) (e : Window) (r : ParcelRecord) : State :=
  let lines := linesFor (r.length.getD 0)
  let fresh := s.setRunning (some { job := j, head := none, payload := [], linesLeft := 0 })
  let sealing :=
    (s.setRunning (some { job := j, head := none, payload := [], linesLeft := lines })).wantAll
      (payloadReads .sealRead e j.parcel lines j.orderPoint)
  match j.kind with
  | .sealData => sealing
  | .sealNotice => sealing
  | .check => fresh.want .checkHead (e.address j.parcel 0) (.read 32) j.orderPoint
  | .checkRenewal => fresh.want .renewalHead (e.address j.parcel 0) (.read 32) j.orderPoint

/-- The head of the queue starts when no job runs (R60). -/
def State.startNext (s : State) : State :=
  match s.tag.running, s.tag.queue with
  | none, j :: rest =>
    let s1 := { s with tag := { s.tag with queue := rest } }
    match s1.window j.window, s1.parcel j.window j.parcel with
    | some e, some r => s1.beginJob j e r
    | _, _ => s1
  | _, _ => s

/-- What follows at once when an entry was freed or taken, or a job ended (R60, R61). -/
def State.tagSettle (s : State) : State :=
  State.giveEntries 17 (State.startNext (State.giveEntries 17 s))

/-- A job's end: its requests not yet in the stream are not issued, the results of
the others are ignored, and the next job starts (R62). -/
def State.endJob (s : State) : State :=
  ((s.discard tagPurpose).setRunning none).tagSettle

/-- A completed inbound parcel is offered: a job at the tail, or the deferred list
(R13, R14, R59). -/
def State.offerCheck (s : State) (w : WindowIndex) (p : Nat) : State :=
  if s.jobRoom then
    (s.enqueue { window := w, parcel := p, kind := s.checkKind w,
                 orderPoint := s.path.nextSerial }).tagSettle
  else
    let s1 := s.updateParcel w p fun r => { r with deferred := true }
    { s1 with tag := { s1.tag with deferred := s1.tag.deferred ++ [(w, p)] } }

/-- A SEAL that passed its checks is offered: none when the queue is full (R59). -/
def State.offerSeal (s : State) (w : WindowIndex) (p length : Nat) : Option State :=
  if s.jobRoom then
    some (((s.handOff w p length).enqueue
      { window := w, parcel := p, kind := .sealData, orderPoint := s.path.nextSerial }).tagSettle)
  else none

/-- The composer offers the seal of its filled notice (R59, R151). -/
def State.offerNotice (s : State) (w : WindowIndex) (n : Notice) : State :=
  let length := 32 * n.ordinals.length
  if s.jobRoom then
    (((s.handOff w n.parcel length).setPhase .sealing).enqueue
      { window := w, parcel := n.parcel, kind := .sealNotice,
        orderPoint := s.path.nextSerial }).tagSettle
  else
    let s1 := s.setPhase .awaitingRoom
    { s1 with tag := { s1.tag with
        waitingSeal := some { window := w, parcel := n.parcel, length := length } } }

/-- The end of a job whose parcel carries the release-pending mark: once nothing it
issued is outstanding, the parcel goes FREE and nothing else is told (R74, R18). -/
def State.endWithdrawn (s : State) (j : Job) : State :=
  if s.awaits tagPurpose then s else (s.freeParcel j.window j.parcel).endJob

/-- RELEASE finds the parcel's job running: the mark is set and the job issues
nothing further (R17, R74). -/
def State.withdraw (s : State) (j : Job) : State :=
  let s1 := s.updateParcel j.window j.parcel fun r => { r with releasePending := true }
  State.endWithdrawn
    { s1 with path := { s1.path with
        unissued := s1.path.unissued.filter fun q => !tagPurpose q.purpose } } j

/-- A result returns to the running job: to a withdrawn job's end (R74), to the
job's error end (R76), or to what the job does with it. -/
def State.jobResult (s : State) (error : Bool)
    (failed : Running → Window → ParcelRecord → State → State)
    (passed : Running → Window → ParcelRecord → State → State) : State :=
  match s.tag.running with
  | none => s
  | some run =>
    match s.window run.job.window, s.parcel run.job.window run.job.parcel with
    | some e, some r =>
      if r.releasePending then s.endWithdrawn run.job
      else if error then failed run e r s
      else passed run e r s
    | _, _ => s

/-! ### Sealing (R63 to R65) -/

/-- A seal job meets a downstream error: a SEAL returns to FILLING, a SEAL_NOTICE
goes FREE with the notice failed, and MEMORY_ERROR is raised (R10, R76, R154). -/
def sealFailed (run : Running) (_e : Window) (r : ParcelRecord) (s : State) : State :=
  let j := run.job
  let event := tagEvent .memoryError j (s.recordContext r) (s.recordGeneration r) j.kind.code 0
  let s1 :=
    if j.kind = .sealNotice then (s.freeParcel j.window j.parcel).noticeFailed true
    else s.updateParcel j.window j.parcel fun q => { q with state := .filling, length := none }
  (s1.raise event).endJob

/-- The tag of a seal over the ciphertext read back (R64, R34 to R37). -/
def State.sealTag (s : State) (kind : Nat) (k : KeySlot) (r : ParcelRecord)
    (payload : List Byte) : Nat :=
  let n := r.sequence.getD 0
  let length := r.length.getD 0
  tagOf k.hashKey (tagMask k.trafficKey k.context.val 1 k.generation n)
    (tagWords payload kind k.context.val k.generation n s.renewal.storeId length)

/-- The parcel kind a seal job writes (R64). -/
def JobKind.parcelKind : JobKind → Nat
  | .sealData => 1
  | .sealNotice => 2
  | .check => 1
  | .checkRenewal => 3

/-- The last read-back has returned: the tag is computed and the head-line write
is issued (R64). -/
def State.issueHeadLine (s : State) (run : Running) (e : Window) (r : ParcelRecord)
    (payload : List Byte) : State :=
  match r.slot with
  | none => s
  | some i =>
    let k := s.slot i
    let kind := run.job.kind.parcelKind
    let line := headLineBytes k.context.val kind k.generation (r.sequence.getD 0)
      s.renewal.storeId (r.length.getD 0) (s.sealTag kind k r payload)
    (s.setRunning (some { run with payload := payload, linesLeft := 0 })).want .headWrite
      (e.address run.job.parcel 0) (wholeLine line) s.path.nextSerial

/-- A seal read-back returned without error (R63, R64). -/
def sealReadback (data : List Byte) (run : Running) (e : Window) (r : ParcelRecord) (s : State) :
    State :=
  let payload := run.payload ++ data
  if run.linesLeft ≤ 1 then s.issueHeadLine run e r payload
  else s.setRunning (some { run with payload := payload, linesLeft := run.linesLeft - 1 })

/-- The head-line write completed without error: the parcel is SEALED, and a
notice's sealing is reported to the composer (R65, R152). -/
def sealCompleted (run : Running) (_e : Window) (_r : ParcelRecord) (s : State) : State :=
  let s1 := s.updateParcel run.job.window run.job.parcel fun q => { q with state := .sealed }
  (if run.job.kind = .sealNotice then s1.noticeSealed else s1).endJob

/-! ### Checking (R66 to R73) -/

/-- Reasons of MALFORMED (section 11.4). -/
inductive MalformedReason where
  | badLength
  | wrongContext
  | wrongKind
  | badStation
  deriving DecidableEq, Repr

/-- The code of a MALFORMED reason (section 11.4). -/
def MalformedReason.code : MalformedReason → Nat
  | .badLength => 1
  | .wrongContext => 2
  | .wrongKind => 3
  | .badStation => 4

/-- Head-line validation: the first check that fails (R67, R73). -/
def validateHead (lengthOk contextOk : Bool) (kind : Nat) (h : HeadLine) :
    Option MalformedReason :=
  if !lengthOk then some .badLength
  else if !contextOk then some .wrongContext
  else if h.kind ≠ kind then some .wrongKind
  else if h.station ≠ 0 then some .badStation
  else none

/-- Validation of a CHECK job (R67). -/
def validateData (e : Window) (h : HeadLine) : Option MalformedReason :=
  validateHead (decide (1 ≤ h.length ∧ h.length ≤ 2016)) (decide (h.context = e.context.val)) 1 h

/-- Validation of a CHECK_RENEWAL job (R73). -/
def validateRenewal (h : HeadLine) : Option MalformedReason :=
  validateHead (decide (h.length = 64)) (decide (h.context ≤ 3)) 3 h

/-- The parcel becomes REJECTED, keeping what the job gave it (R15). -/
def State.reject (s : State) (j : Job) : State :=
  s.updateParcel j.window j.parcel fun r => { r with state := .rejected }

/-- A check ends REJECTED with a record (R72, R73). -/
def State.rejectWith (s : State) (j : Job) (event : FaultEvent) : State :=
  ((s.reject j).raise event).endJob

/-- A check job meets a downstream error (R76). -/
def checkFailed (run : Running) (_e : Window) (r : ParcelRecord) (s : State) : State :=
  let j := run.job
  s.rejectWith j
    (tagEvent .memoryError j (s.windowContext j.window) (s.recordGeneration r) j.kind.code 0)

/-- Generation resolution found slot i: the record takes it and the head line's
sequence, the reference count goes up, and the payload reads are issued (R68, R69). -/
def State.resolved (s : State) (run : Running) (e : Window) (h : HeadLine) (i : SlotId) : State :=
  let j := run.job
  let lines := linesFor h.length
  let s1 := s.updateParcel j.window j.parcel fun r =>
    { r with slot := some i, sequence := some h.sequence }
  let s2 := (s1.updateSlot i KeySlot.takeReference).setRunning
    (some { job := j, head := some h, payload := [], linesLeft := lines })
  s2.wantAll (payloadReads .checkPayload e j.parcel lines j.orderPoint)

/-- A CHECK job's head line returned without error (R67, R68). -/
def checkHead (data : List Byte) (run : Running) (e : Window) (_r : ParcelRecord) (s : State) :
    State :=
  let j := run.job
  let h := headLineOf data
  match validateData e h with
  | some reason =>
    s.rejectWith j (tagEvent .malformed j (some e.context.val) none reason.code 0)
  | none =>
    let s1 := s.updateParcel j.window j.parcel fun r => { r with length := some h.length }
    match s1.resolve h.context h.generation with
    | none =>
      s1.rejectWith j (tagEvent .unknownGeneration j (some e.context.val) none h.generation 0)
    | some i => s1.resolved run e h i

/-- What the acceptance check gives (R70). -/
inductive Acceptance where
  | takeIn (highMark : Nat) (admitted : List Nat)
  | replayed
  | stale
  deriving DecidableEq, Repr

/-- The acceptance check of sequence n against a high mark and an admitted set (R70). -/
def acceptance (highMark : Nat) (admitted : List Nat) (n : Nat) : Acceptance :=
  if n = 0 then .stale
  else if highMark < n then .takeIn n (n :: admitted.filter fun x => decide (n ≤ x + 31))
  else if n ∈ admitted then .replayed
  else if n + 31 < highMark then .stale
  else .takeIn highMark (n :: admitted)

/-- The tag of an inbound parcel under a hash key and a key (R69, R73, R35). -/
def checkTag (hashKey : Nat) (key : Key) (kind : Nat) (h : HeadLine) (payload : List Byte) : Nat :=
  tagOf hashKey (tagMask key h.context 2 h.generation h.sequence)
    (tagWords payload kind h.context h.generation h.sequence h.station h.length)

/-- An admission (R70, R71): the acceptance record is updated, the parcel becomes
ADMITTED, the link-silence watch is told, and a first peer use changes over. -/
def State.takeIn (s : State) (j : Job) (e : Window) (i : SlotId) (highMark : Nat)
    (admitted : List Nat) : State :=
  let s1 := s.updateSlot i fun k => { k with highMark := highMark, admitted := admitted }
  let s2 := s1.updateParcel j.window j.parcel fun r => { r with state := .admitted }
  let s3 := s2.linkAdmission e.context
  let c := (s3.slot i).context
  let s4 :=
    if (s3.slot i).state = .staged ∧ (s3.slot i).mode = .onPeerUse ∧ s3.stagedHead c = some i then
      s3.changeover c
    else s3
  s4.endJob

/-- The last payload line of a CHECK returned: tag comparison, then acceptance (R69, R70). -/
def State.checkEnds (s : State) (j : Job) (e : Window) (h : HeadLine) (i : SlotId)
    (payload : List Byte) : State :=
  let k := s.slot i
  let event := fun kind b =>
    tagEvent kind j (some e.context.val) (some k.generation) h.sequence b
  if checkTag k.hashKey k.trafficKey 1 h payload ≠ h.tag then
    s.rejectWith j (event .tagMismatch 0)
  else
    match acceptance k.highMark k.admitted h.sequence with
    | .replayed => s.rejectWith j (event .replayed 0)
    | .stale => s.rejectWith j (event .stale k.highMark)
    | .takeIn highMark admitted => s.takeIn j e i highMark admitted

/-- A CHECK payload line returned without error (R69). -/
def checkPayload (data : List Byte) (run : Running) (e : Window) (r : ParcelRecord) (s : State) :
    State :=
  let payload := run.payload ++ data
  if run.linesLeft ≤ 1 then
    match run.head, r.slot with
    | some h, some i => s.checkEnds run.job e h i payload
    | _, _ => s
  else s.setRunning (some { run with payload := payload, linesLeft := run.linesLeft - 1 })

/-- A CHECK_RENEWAL job's head line returned without error (R73). -/
def renewalHead (data : List Byte) (run : Running) (e : Window) (_r : ParcelRecord) (s : State) :
    State :=
  let j := run.job
  let h := headLineOf data
  match validateRenewal h with
  | some reason => s.rejectWith j (tagEvent .malformed j none none reason.code 0)
  | none =>
    let s1 := s.updateParcel j.window j.parcel fun r => { r with length := some h.length }
    let s2 := s1.setRunning (some { job := j, head := some h, payload := [], linesLeft := 2 })
    s2.wantAll (payloadReads .renewalPayload e j.parcel 2 j.orderPoint)

/-- The end of a renewal check by its tag under h_W and s_W (R39, R73, R107). -/
def State.renewalEnds (s : State) (j : Job) (h : HeadLine) (payload : List Byte) : State :=
  let w := s.renewal.wrapKey
  if checkTag (hashKeyOf w) w 3 h payload ≠ h.tag then
    s.rejectWith j (tagEvent .tagMismatch j (some h.context) (some h.generation) h.sequence 0)
  else
    ((s.updateParcel j.window j.parcel fun r => { r with state := .admitted }).joinImportList
      { window := j.window, parcel := j.parcel, context := h.context,
        generation := h.generation, sequence := h.sequence }).endJob

/-- A CHECK_RENEWAL payload line returned without error (R73). -/
def renewalPayload (data : List Byte) (run : Running) (_e : Window) (_r : ParcelRecord)
    (s : State) : State :=
  let payload := run.payload ++ data
  if run.linesLeft ≤ 1 then
    match run.head with
    | some h => s.renewalEnds run.job h payload
    | none => s
  else s.setRunning (some { run with payload := payload, linesLeft := run.linesLeft - 1 })

/-! ### The composer's image writes (R150, R151, R154) -/

/-- A notice image write completed: after the last the seal is offered; an error
fails the notice. -/
def noticeImageWritten (error : Bool) (s : State) : State :=
  match s.noticeWindow, s.composer.notice with
  | some w, some n =>
    if error then
      let generation := (s.parcel w n.parcel).bind s.recordGeneration
      (((s.noticeFailed true).discard (only .noticeImage)).freeParcel w n.parcel).raise
        { kind := .memoryError, context := some n.context.val, window := some w.val,
          parcel := some n.parcel, generation := generation, detailA := noticeWriteCode,
          detailB := 0 }
    else if n.writesLeft ≤ 1 then
      State.offerNotice
        { s with composer := { s.composer with notice := some { n with writesLeft := 0 } } } w n
    else
      { s with composer := { s.composer with
          notice := some { n with writesLeft := n.writesLeft - 1 } } }
  | _, _ => s

/-! ### Meanings -/

/-- SEAL_READBACK_DONE (R64). -/
def execSealReadbackDone (error : Bool) (s : State) : Host.Outcome State Fault Refusal :=
  s.onCompletion (only .sealRead) error fun data t =>
    t.jobResult error sealFailed (sealReadback data)

/-- HEAD_LINE_WRITE_DONE (R65). -/
def execHeadLineWriteDone (error : Bool) (s : State) : Host.Outcome State Fault Refusal :=
  s.onCompletion (only .headWrite) error fun _ t =>
    t.jobResult error sealFailed sealCompleted

/-- CHECK_HEAD_LINE_READ (R67). -/
def execCheckHeadLineRead (error : Bool) (s : State) : Host.Outcome State Fault Refusal :=
  s.onCompletion (only .checkHead) error fun data t =>
    t.jobResult error checkFailed (checkHead data)

/-- CHECK_PAYLOAD_READ (R69). -/
def execCheckPayloadRead (error : Bool) (s : State) : Host.Outcome State Fault Refusal :=
  s.onCompletion (only .checkPayload) error fun data t =>
    t.jobResult error checkFailed (checkPayload data)

/-- RENEWAL_HEAD_LINE_READ (R73). -/
def execRenewalHeadLineRead (error : Bool) (s : State) : Host.Outcome State Fault Refusal :=
  s.onCompletion (only .renewalHead) error fun data t =>
    t.jobResult error checkFailed (renewalHead data)

/-- RENEWAL_PAYLOAD_READ (R73). -/
def execRenewalPayloadRead (error : Bool) (s : State) : Host.Outcome State Fault Refusal :=
  s.onCompletion (only .renewalPayload) error fun data t =>
    t.jobResult error checkFailed (renewalPayload data)

/-- NOTICE_IMAGE_WRITE_DONE (R150). -/
def execNoticeImageWriteDone (error : Bool) (s : State) : Host.Outcome State Fault Refusal :=
  s.onCompletion (only .noticeImage) error fun _ t => noticeImageWritten error t

end Sys2Proof.Machine
end

