-- ==== Sys2Proof/Machine/Commands.lean ====
section
/-! DEFINITION. The command unit: taking, performing and answering commands, snapshots, PURGE and the taking of RESTART (chapter 10). -/

namespace Sys2Proof.Machine

/-- What a command's checks and effect give: a status with its detail, and the state. -/
structure Answer where
  status : Status
  detail : Nat
  state : State
  deriving DecidableEq, Repr

/-- The command ends DONE. -/
def Answer.done (s : State) (detail : Nat := 0) : Answer :=
  { status := .done, detail := detail, state := s }

/-- A check fails with BAD_ARGUMENT and its position (R171). -/
def Answer.badArgument (s : State) (detail : Nat) : Answer :=
  { status := .badArgument, detail := detail, state := s }

/-- A check fails with REFUSED and its detail (R171, R174). -/
def Answer.refused (s : State) (detail : Nat) : Answer :=
  { status := .refused, detail := detail, state := s }

/-- The result to write is set and its write is issued (R172). -/
def State.finishCommand (s : State) (status : Status) (detail : Nat) : State :=
  let ticket := s.command.ticket
  let s1 := { s with command := { s.command with
    phase := .writingResult, resultTicket := ticket, resultStatus := status,
    resultDetail := detail, snapshot := none } }
  s1.want .result resultAddress (wholeLine (resultLine ticket status detail)) s.path.nextSerial

/-- The result an answer gives (R171). -/
def Answer.finish (a : Answer) : State :=
  a.state.finishCommand a.status a.detail

/-- A MEMORY_ERROR of the command unit: no optional fields, detail A COMMAND (R171, R172, R179). -/
def commandMemoryError : FaultEvent :=
  { kind := .memoryError, context := none, window := none, parcel := none, generation := none,
    detailA := commandCode, detailB := 0 }

/-! ### PURGE (R97, R21, R75, R155) -/

/-- Does a job write a head line? -/
def JobKind.isSeal : JobKind → Bool
  | .sealData => true
  | .sealNotice => true
  | .check => false
  | .checkRenewal => false

/-- Does the purge end the running job: a seal, or a check after resolution (R75)? -/
def State.purgeEnds (s : State) (j : Job) : Bool :=
  match s.parcel j.window j.parcel with
  | none => j.kind.isSeal
  | some r => j.kind.isSeal || r.slot.isSome

/-- The tag engine's part of a purge, without the giving of freed entries (R75). -/
def State.purgeJobs (s : State) : State :=
  let s1 := { s with tag := { s.tag with
    queue := s.tag.queue.filter fun j => !j.kind.isSeal, waitingSeal := none } }
  match s1.tag.running with
  | none => s1
  | some run => if s.purgeEnds run.job then (s1.discard tagPurpose).setRunning none else s1

/-- The composer's part: a notice in progress fails, its image writes are
discarded (R155). -/
def State.purgeNotice (s : State) : State :=
  match s.composer.notice with
  | none => s
  | some _ => (s.noticeFailed false).discard (only .noticeImage)

/-- A record that holds a slot goes FREE (R21). -/
def State.purgeParcel (w : WindowIndex) (s : State) (p : Nat) : State :=
  match s.parcel w p with
  | none => s
  | some r => if r.slot.isSome then s.freeParcel w p else s

/-- Every record of a window that holds a slot goes FREE (R21). -/
def State.purgeWindow (s : State) (w : WindowIndex) : State :=
  match s.window w with
  | none => s
  | some e => (List.range e.count).foldl (State.purgeParcel w) s

/-- KEYS_PURGED (R97). -/
def purgedEvent (emptied : Nat) : FaultEvent :=
  { kind := .keysPurged, context := none, window := none, parcel := none, generation := none,
    detailA := emptied, detailB := 0 }

/-- A purge (R97; the order of its parts is log 27). -/
def State.purge (s : State) : State :=
  let emptied := s.slotsHeld
  let s1 := windowIds.foldl State.purgeWindow s.purgeJobs.purgeNotice
  ((s1.emptyAllSlots).raise (purgedEvent emptied)).tagSettle

/-! ### Taking a command (R170, R180) -/

/-- The code and ticket of the command in progress (R167). -/
def State.latchCommand (s : State) (code ticket : Nat) : State :=
  { s with command := { s.command with code := code, ticket := ticket, arguments := [] } }

/-- Any command with arguments: the argument read is issued with its order point at
the taking (R170, R52). -/
def State.readArguments (s : State) : State :=
  let s1 := { s with command := { s.command with phase := .readingArguments } }
  s1.want .argument controlBase (.read 32) s.path.nextSerial

/-- RESTART is taken (R180, R57): the ticket is kept, no request is taken any
more, internal requests not granted are discarded, and the results of those
granted are ignored. -/
def State.takeRestart (s : State) (ticket : Nat) : State :=
  { s with
    mode := .restarting,
    command := { s.command with restartTicket := ticket },
    path := { s.path with
      internal := [], unissued := [],
      flight := s.path.flight.map (Flight.ignore fun _ => true) } }

/-- Command code of PURGE (section 11.4). -/
def purgeCode : Nat :=
  11

/-- Command code of RESTART, the highest (section 11.4). -/
def restartCode : Nat :=
  13

/-- A command is taken in IDLE by an accepted write of the whole command word (R170). -/
def State.takeCommand (s : State) (code ticket : Nat) : State :=
  if s.mode ≠ .running ∨ s.command.phase ≠ .idle then s
  else if code = 0 then s
  else if restartCode < code then (s.latchCommand code ticket).finishCommand .unknownCommand code
  else if code = purgeCode then
    (s.latchCommand code ticket).purge.finishCommand .done s.slotsHeld
  else if code = restartCode then s.takeRestart ticket
  else (s.latchCommand code ticket).readArguments

/-! ### The argument read returns (R171, R173) -/

/-- Is the oldest granted access the argument read of the command in progress, and
is that command the one of this code? -/
def State.argumentReturns (s : State) (code : Nat) : Option (InternalRequest × List Flight) :=
  match s.path.flight with
  | .internal r :: rest =>
    if r.purpose = .argument ∧ r.ignored = false ∧ s.command.phase = .readingArguments ∧
        s.command.code = code then some (r, rest)
    else none
  | _ => none

/-- A step that performs a command: the argument read has returned without error,
the checks are applied and the effect made at that event (R171); its result write is
issued, and then the counters write that its effect calls for (R140, log 35). Nothing
happens when that read is not the oldest granted access or the command is another
(log 4). -/
def State.perform (s : State) (code : Nat) (act : List Nat → State → Answer) :
    Host.Outcome State Fault Refusal :=
  match s.argumentReturns code with
  | none => .next s
  | some (r, rest) =>
    let words := argumentWords (s.returned r.address r.access)
    let s1 := { s with
      path := { s.path with flight := rest },
      command := { s.command with arguments := words } }
    .next (act words s1).finish.issueCounters.finish

/-! ### Window and parcel commands (R174) -/

/-- What the fixed limits of DEFINE_WINDOW give: the failing check or the entry (R2). -/
def defineArguments (words : List Nat) : Nat ⊕ (WindowIndex × Window) :=
  let base := argument words 2
  let count := argument words 3
  match index? 8 (argument words 1) with
  | none => .inl 1
  | some w =>
    if count = 0 ∨ 64 < count then .inl 2
    else if base % 2048 ≠ 0 then .inl 3
    else if 16773120 < base + 2048 * count then .inl 4
    else
      match directionOf? (argument words 4), roleOf? (argument words 5),
          index? 4 (argument words 6) with
      | some d, some role, some c =>
        if (role = .notice ∧ d = .inbound) ∨ (role = .renewal ∧ d = .outbound) then .inl 6
        else .inr (w, { base := base, count := count, direction := d, role := role, context := c,
                        parcels := List.replicate count ParcelRecord.blank })
      | _, _, _ => .inl 5

/-- Do two windows share a byte (R3)? -/
def Window.overlaps (a b : Window) : Bool :=
  decide (a.base < b.base + 2048 * b.count) && decide (b.base < a.base + 2048 * a.count)

/-- Does some valid entry satisfy a test? -/
def State.anyWindow (s : State) (test : Window → Bool) : Bool :=
  windowIds.any fun w =>
    match s.window w with
    | none => false
    | some e => test e

/-- The failing check of R3, or none. -/
def State.defineRefusal (s : State) (w : WindowIndex) (e : Window) : Option Nat :=
  if !s.renewal.provisioned then some 1
  else if (s.window w).isSome then some 2
  else if s.anyWindow e.overlaps then some 3
  else if e.role = .notice ∧ s.anyWindow (fun f => decide (f.role = .notice)) = true then some 4
  else if e.role = .renewal ∧ s.anyWindow (fun f => decide (f.role = .renewal)) = true then some 5
  else none

/-- The effect of DEFINE_WINDOW (R4, R131, R133, R143). -/
def State.defineWindow (s : State) (w : WindowIndex) (e : Window) : State :=
  let s1 := (s.setWindow w (some e)).restartCounter (windowCounter w)
  if e.role = .notice then s1.composerDefined else s1

/-- DEFINE_WINDOW's checks and effect. -/
def answerDefineWindow (words : List Nat) (s : State) : Answer :=
  match defineArguments words with
  | .inl n => .badArgument s n
  | .inr (w, e) =>
    match s.defineRefusal w e with
    | some n => .refused s n
    | none => .done (s.defineWindow w e)

/-- The effect of CLEAR_WINDOW (R5, R133, R143). -/
def State.clearWindow (s : State) (w : WindowIndex) (e : Window) : State :=
  let s1 := s.setWindow w none
  if e.role = .notice then s1.noticeWindowCleared.composerCleared else s1

/-- CLEAR_WINDOW's checks and effect (R5, R174). -/
def answerClearWindow (words : List Nat) (s : State) : Answer :=
  match index? 8 (argument words 1) with
  | none => .badArgument s 1
  | some w =>
    match s.window w with
    | none => .refused s 1
    | some e =>
      if e.parcels.any fun r => decide (r.state ≠ .free) then .refused s 2
      else .done (s.clearWindow w e)

/-- Checks 1 to 3 of SEAL and RELEASE (R174): the failing check, or the parcel. -/
def State.parcelArgument (s : State) (words : List Nat) :
    Nat ⊕ (WindowIndex × Window × ParcelRecord) :=
  match index? 8 (argument words 1) with
  | none => .inl 1
  | some w =>
    match s.window w with
    | none => .inl 2
    | some e =>
      match s.parcel w (argument words 2) with
      | none => .inl 3
      | some r => if e.count ≤ argument words 2 then .inl 3 else .inr (w, e, r)

/-- SEAL's checks and effect (R9, R59, R174). -/
def answerSeal (words : List Nat) (s : State) : Answer :=
  match s.parcelArgument words with
  | .inl n => .badArgument s n
  | .inr (w, _, r) =>
    let length := argument words 3
    if length < 1 ∨ 2016 < length then .badArgument s 4
    else if r.state ≠ .filling ∨ r.owner ≠ some .controller then .refused s r.state.code
    else
      match s.offerSeal w (argument words 2) length with
      | none => { status := .busy, detail := 0, state := s }
      | some t => .done t

/-- Is a job about this parcel? -/
def Job.isFor (w : WindowIndex) (p : Nat) (j : Job) : Bool :=
  decide (j.window = w) && decide (j.parcel = p)

/-- RELEASE of a SEALING or CHECKING parcel: it leaves the deferred list, its
waiting job is removed, or its running job is marked; none when release-pending
is already set (R17, R74). -/
def State.releaseJob (s : State) (w : WindowIndex) (p : Nat) (r : ParcelRecord) : Option State :=
  if r.releasePending then none
  else if (w, p) ∈ s.tag.deferred then
    some (State.freeParcel { s with tag := { s.tag with
      deferred := s.tag.deferred.filter fun d => decide (d ≠ (w, p)) } } w p)
  else if s.tag.queue.any (Job.isFor w p) then
    some (State.tagSettle (State.freeParcel { s with tag := { s.tag with
      queue := s.tag.queue.filter fun j => !j.isFor w p } } w p))
  else
    match s.tag.running with
    | none => none
    | some run => if run.job.isFor w p then some (s.withdraw run.job) else none

/-- What RELEASE does by the record's state; none is REFUSED (R17). -/
def State.release (s : State) (w : WindowIndex) (e : Window) (p : Nat) (r : ParcelRecord) :
    Option State :=
  match r.state with
  | .free => none
  | .filling => if r.owner = some .controller then some (s.freeParcel w p) else none
  | .sealing => if r.owner = some .controller then s.releaseJob w p r else none
  | .sealed => some (s.freeParcel w p)
  | .arriving => some (s.freeParcel w p)
  | .checking => s.releaseJob w p r
  | .admitted => if e.role = .renewal then none else some (s.freeParcel w p)
  | .rejected => some (s.freeParcel w p)

/-- RELEASE's checks and effect (R17, R174). -/
def answerRelease (words : List Nat) (s : State) : Answer :=
  match s.parcelArgument words with
  | .inl n => .badArgument s n
  | .inr (w, e, r) =>
    match s.release w e (argument words 2) r with
    | none => .refused s r.state.code
    | some t => .done t

/-! ### Key, setting and timing commands (R175) -/

/-- SET_CONTEXT's checks and effect (R82, R163). -/
def answerSetContext (words : List Nat) (s : State) : Answer :=
  let w := argument words 1
  match index? 4 (w % 256) with
  | none => .badArgument s 1
  | some c =>
    match fallbackOf? (w / 256 % 256) with
    | none => .badArgument s 2
    | some f =>
      let new := clampSettings c (argument words 2) (argument words 3) (argument words 4)
        (argument words 5) (argument words 6) (argument words 7) f
      .done ((s.applySettings c new).applyLinkPeriod c new.linkSilence).noteExamination

/-- SET_GROUPING's check and effect (R84). -/
def answerSetGrouping (words : List Nat) (s : State) : Answer :=
  match groupingOf? (argument words 1) with
  | none => .badArgument s 1
  | some g => .done { s with keys := { s.keys with grouping := g } }

/-- SET_NOTICE's effect (R147). -/
def answerSetNotice (words : List Nat) (s : State) : Answer :=
  .done (s.setGatherTime (argument words 1))

/-- SET_HEARTBEAT's effect (R160). -/
def answerSetHeartbeat (words : List Nat) (s : State) : Answer :=
  .done (s.applyHeartbeatPeriod (argument words 1))

/-- ACTIVATE_NOW's checks and effect (R90). -/
def answerActivateNow (words : List Nat) (s : State) : Answer :=
  match index? 4 (argument words 1) with
  | none => .badArgument s 1
  | some c =>
    match s.stagedHead c with
    | none => .refused s 1
    | some h => .done (s.changeover c) (s.slot h).generation

/-- RETIRE's checks and effect (R95). -/
def answerRetire (words : List Nat) (s : State) : Answer :=
  let g := argument words 2
  match index? 4 (argument words 1) with
  | none => .badArgument s 1
  | some c =>
    if g = 0 ∨ 65535 < g then .badArgument s 2
    else
      match s.retirable c g with
      | none => .refused s 1
      | some i => .done (s.retireSlot c i)

/-! ### Snapshots (R176 to R178) -/

/-- The images of a snapshot: kind code, window index, entry count, entry size,
entry bytes, and the last 8 bytes of the header (R176, R183). -/
structure View where
  kind : Nat
  window : Nat
  count : Nat
  size : Nat
  entries : List Byte
  tail : List Byte
  deriving DecidableEq, Repr

/-- The KEYS view: slots 0 to 15 (R177). -/
def State.keysView (s : State) : View :=
  { kind := 1, window := 0, count := 16, size := 64,
    entries := ((0 :: usableSlots).map fun i => keysEntry (s.slot i)).flatten,
    tail := leBytes 8 0 }

/-- Where a parcel stands with the tag engine and the renewal unit (R177). -/
def State.jobPosition (s : State) (w : WindowIndex) (p : Nat) : JobPosition :=
  if (w, p) ∈ s.tag.deferred then .deferred
  else if s.tag.queue.any (Job.isFor w p) then .waiting
  else if (match s.tag.running with | none => false | some run => run.job.isFor w p) then .running
  else if s.renewal.importList.any fun x => decide (x.window = w) && decide (x.parcel = p) then
    .importing
  else .none

/-- The PARCELS view of a window (R177). -/
def State.parcelsView (s : State) (w : WindowIndex) (e : Window) : View :=
  { kind := 2, window := w.val, count := e.count, size := 16,
    entries := (e.parcels.zipIdx.map fun rp => parcelsEntry rp.1 (s.jobPosition w rp.2)).flatten,
    tail := leBytes 4 e.base ++ leBytes 1 e.count ++ leBytes 1 e.direction.code ++
      leBytes 1 e.role.code ++ leBytes 1 e.context.val }

/-- The part-wide entry of a CONTEXTS view (R178, section 11.3). -/
def State.partEntry (s : State) : List Byte :=
  wordsBytes
    [s.renewal.storeId, s.time.tick.toNat, s.keys.grouping.code, s.time.heartbeat.period,
     s.time.heartbeat.mark.shown, s.time.heartbeat.mark.status, flag s.time.heartbeat.silent,
     s.composer.gatherTime, s.composer.phase.code, s.composer.ring, s.composer.published,
     s.tag.queue.length, s.tag.deferred.length, s.renewal.importList.length] ++ leBytes 8 0

/-- A context entry of a CONTEXTS view (R178, section 11.3). -/
def State.contextEntry (s : State) (c : Ctx) : List Byte :=
  let row := s.context c
  let set := row.settings
  let link := s.link c
  wordsBytes
    [set.drainPeriod, set.reserveParcels, set.reserveTicks, set.holdLow, set.holdHigh,
     set.linkSilence, fallbackCode set.fallback, row.floor, slotNumber (s.activeSlot c),
     slotNumber (s.drainingSlot c), slotNumber (s.stagedHead c), slotNumber (s.stagedTail c),
     flag row.holdLine, flag link.silent, link.mark.shown, link.mark.status]

/-- The CONTEXTS view (R178). -/
def State.contextsView (s : State) : View :=
  { kind := 3, window := 0, count := 5, size := 64,
    entries := s.partEntry ++ (contextIds.map s.contextEntry).flatten, tail := leBytes 8 0 }

/-- The header line of a view (R176, R183). -/
def State.snapshotHeader (s : State) (v : View) : List Byte :=
  leBytes 4 v.kind ++ leBytes 4 v.window ++ leBytes 4 v.count ++ leBytes 4 v.size ++
    leBytes 4 s.command.ticket ++ leBytes 4 s.time.tick.toNat ++ v.tail

/-- How many lines some bytes fill. -/
def linesOf (bytes : List Byte) : Nat :=
  (bytes.length + 31) / 32

/-- Line k of some bytes, an odd last line filled with zeros (R176). -/
def lineOf (bytes : List Byte) (k : Nat) : List Byte :=
  (slice bytes (32 * k) 32).rightpad 32 0

/-- The write of line k of the entries. -/
def State.entryWrite (s : State) (v : View) (k : Nat) : InternalRequest :=
  { purpose := .snapshotEntry, ignored := false, address := snapshotAddress + 32 * (k + 1),
    access := wholeLine (lineOf v.entries k), orderPoint := s.path.nextSerial }

/-- A snapshot is taken: the images are made and the entry writes issued in
ascending address order (R176). -/
def State.takeSnapshot (s : State) (v : View) : State :=
  let lines := linesOf v.entries
  let s1 := { s with command := { s.command with
    phase := .writingSnapshot,
    snapshot := some { header := s.snapshotHeader v, entries := v.count, writesLeft := lines } } }
  s1.wantAll ((List.range lines).map (s.entryWrite v))

/-- SNAPSHOT's checks: the failing check's status and detail, or the view (R176). -/
def State.snapshotView (s : State) (words : List Nat) : Answer ⊕ View :=
  match argument words 1 with
  | 1 => .inr s.keysView
  | 2 =>
    match index? 8 (argument words 2) with
    | none => .inl (.badArgument s 2)
    | some w =>
      match s.window w with
      | none => .inl (.refused s 1)
      | some e => .inr (s.parcelsView w e)
  | 3 => .inr s.contextsView
  | _ => .inl (.badArgument s 1)

/-- The command unit ends a snapshot, with or without its writes: further writes
are not issued and those issued are ignored (R179). -/
def snapshotPurpose (p : Purpose) : Bool :=
  decide (p = .snapshotEntry) || decide (p = .snapshotHeader)

/-- A snapshot write completed (R176, R179): after the last entry the header is
written, after the header the result; an error ends the snapshot REFUSED 255. -/
def snapshotWritten (error : Bool) (s : State) : State :=
  match s.command.snapshot with
  | none => s
  | some run =>
    if error then
      ((s.discard snapshotPurpose).raise commandMemoryError).finishCommand .refused 255
    else if run.writesLeft = 0 then s.finishCommand .done run.entries
    else
      let s1 := { s with command := { s.command with
        snapshot := some { run with writesLeft := run.writesLeft - 1 } } }
      if run.writesLeft = 1 then
        s1.want .snapshotHeader snapshotAddress (wholeLine run.header) s.path.nextSerial
      else s1

/-! ### Meanings -/

/-- COMMAND_TAKEN (R170). -/
def execCommandTaken (code : Byte) (ticket : BitVec 24) (s : State) :
    Host.Outcome State Fault Refusal :=
  .next (s.takeCommand code.toNat ticket.toNat).finish

/-- DEFINE_WINDOW (R4). -/
def execDefineWindow (s : State) : Host.Outcome State Fault Refusal :=
  s.perform 1 answerDefineWindow

/-- CLEAR_WINDOW (R5). -/
def execClearWindow (s : State) : Host.Outcome State Fault Refusal :=
  s.perform 2 answerClearWindow

/-- SET_CONTEXT (R82). -/
def execSetContext (s : State) : Host.Outcome State Fault Refusal :=
  s.perform 3 answerSetContext

/-- SET_GROUPING (R84). -/
def execSetGrouping (s : State) : Host.Outcome State Fault Refusal :=
  s.perform 4 answerSetGrouping

/-- SET_NOTICE (R147). -/
def execSetNotice (s : State) : Host.Outcome State Fault Refusal :=
  s.perform 5 answerSetNotice

/-- SET_HEARTBEAT (R160). -/
def execSetHeartbeat (s : State) : Host.Outcome State Fault Refusal :=
  s.perform 6 answerSetHeartbeat

/-- SEAL (R9). -/
def execSeal (s : State) : Host.Outcome State Fault Refusal :=
  s.perform 7 answerSeal

/-- RELEASE (R17). -/
def execRelease (s : State) : Host.Outcome State Fault Refusal :=
  s.perform 8 answerRelease

/-- ACTIVATE_NOW (R90). -/
def execActivateNow (s : State) : Host.Outcome State Fault Refusal :=
  s.perform 9 answerActivateNow

/-- RETIRE (R95). -/
def execRetire (s : State) : Host.Outcome State Fault Refusal :=
  s.perform 10 answerRetire

/-- PURGE, performed at its taking (R97, R170). -/
def execPurge (ticket : BitVec 24) (s : State) : Host.Outcome State Fault Refusal :=
  .next (s.takeCommand purgeCode ticket.toNat).finish

/-- SNAPSHOT (R176). -/
def execSnapshot (s : State) : Host.Outcome State Fault Refusal :=
  match s.argumentReturns 12 with
  | none => .next s
  | some (r, rest) =>
    let words := argumentWords (s.returned r.address r.access)
    let s1 := { s with
      path := { s.path with flight := rest },
      command := { s.command with arguments := words } }
    match s1.snapshotView words with
    | .inl a => .next a.finish.finish
    | .inr v => .next (s1.takeSnapshot v).finish

/-- RESTART, taken at its command word (R180). -/
def execRestart (ticket : BitVec 24) (s : State) : Host.Outcome State Fault Refusal :=
  .next (s.takeCommand restartCode ticket.toNat).finish

/-- ARGUMENT_READ_FAILED (R171). -/
def execArgumentReadFailed (s : State) : Host.Outcome State Fault Refusal :=
  s.onCompletion (only .argument) true fun _ t =>
    (t.raise commandMemoryError).finishCommand .refused 255

/-- RESULT_WRITE_DONE (R172). -/
def execResultWriteDone (error : Bool) (s : State) : Host.Outcome State Fault Refusal :=
  s.onCompletion (only .result) error fun _ t =>
    let t1 := { t with command := { t.command with phase := .idle } }
    if error then t1.raise commandMemoryError else t1

/-- SNAPSHOT_WRITE_DONE (R176). -/
def execSnapshotWriteDone (error : Bool) (s : State) : Host.Outcome State Fault Refusal :=
  s.onCompletion snapshotPurpose error fun _ t => snapshotWritten error t

end Sys2Proof.Machine
end

