-- ==== Sys2Proof/WellFormed.lean ====
section
/-! DEFINITION. The fixed bounds the spec sets on a command's operands. -/

namespace Sys2Proof

/-- A byte count of 1 to 256 (00_scope.md, Upstream requests). -/
def Request.wellFormed (r : Request) : Bool :=
  decide (1 ≤ r.access.count) && decide (r.access.count ≤ 256)

/-- A plain write piece of the control window: inside the 4,096 bytes, at least
one byte, within one 32-byte line (R43, R169). -/
def controlPieceWellFormed (offset : Nat) (bytes : List (Option Byte)) : Bool :=
  decide (offset < 4096) && decide (1 ≤ bytes.length) && decide (offset % 32 + bytes.length ≤ 32)

/-- The mark of a slot: the null slot has none (R78). -/
def slotWellFormed (i : SlotId) : Bool :=
  decide (i ≠ 0)

/-- The operands are ones the spec has. -/
def Instr.wellFormed : Instr → Bool
  | .upstreamRequest r => r.wellFormed
  | .controlWindowWrite offset bytes => controlPieceWellFormed offset bytes
  | .activationMarkReached i => slotWellFormed i
  | .expiryMarkReached i => slotWellFormed i
  | .renewalDueMarkReached i => slotWellFormed i
  | .drainDeadlineReached i => slotWellFormed i
  | .powerOn => true
  | .resetLineAsserted _ => true
  | .resetLineReleased => true
  | .boundaryScanSelected _ => true
  | .fuseProgramming _ => true
  | .rootFuseStoreRead => true
  | .startUpResultWriteDone _ => true
  | .heartbeat => true
  | .receipt => true
  | .commandTaken _ _ => true
  | .defineWindow => true
  | .clearWindow => true
  | .setContext => true
  | .setGrouping => true
  | .setNotice => true
  | .setHeartbeat => true
  | .sealParcel => true
  | .release => true
  | .activateNow => true
  | .retire => true
  | .purge _ => true
  | .snapshot => true
  | .restart _ => true
  | .restartReset => true
  | .argumentReadFailed => true
  | .resultWriteDone _ => true
  | .snapshotWriteDone _ => true
  | .passingPieceDone _ => true
  | .downstreamGrant => true
  | .sealReadbackDone _ => true
  | .headLineWriteDone _ => true
  | .checkHeadLineRead _ => true
  | .checkPayloadRead _ => true
  | .renewalHeadLineRead _ => true
  | .renewalPayloadRead _ => true
  | .importReadDone _ => true
  | .postWriteIssue => true
  | .postWriteDone _ => true
  | .countersWriteDone _ => true
  | .noticeImageWriteDone _ => true
  | .tick => true
  | .gatherMarkReached => true
  | .retryMarkReached => true
  | .heartbeatMarkReached => true
  | .linkSilenceMarkReached _ => true

end Sys2Proof
end

