-- ==== Sys2Proof/Machine/Upstream.lean ====
section
/-! DEFINITION. The memory path's upstream side: decoding, cutting, routing, responses and receipts; the passing stream's and the fault unit's completions (R41 to R50, R136 to R140, R168 to R170). -/

namespace Sys2Proof.Machine

/-! ### Decoding and cutting (R41 to R43) -/

/-- The alias of an upstream offset; none at 0x200_0000 and above (R41). -/
def aliasOf (offset : Nat) : Option Alias :=
  if offset < 0x1000000 then some .plain
  else if offset < 0x2000000 then some .raw
  else none

/-- Do the first and last byte lie in different 2,048-byte blocks (R42)? -/
def Request.crosses (r : Request) : Bool :=
  decide (r.offset / 2048 ≠ (r.offset + r.access.count - 1) / 2048)

/-- The reason for which a request is refused whole (R41, R42). -/
def Request.refusedWhole (r : Request) : Option RefusalReason :=
  if (aliasOf r.offset).isNone then some .outOfRange
  else if Request.crosses r then some .crossesBoundary
  else none

/-- A line piece: its downstream address and what it asks (R43). -/
structure Cut where
  address : Nat
  access : Access
  deriving DecidableEq, Repr

/-- Part of an access. -/
def Access.part : Access → Nat → Nat → Access
  | .read _, _, length => .read length
  | .write bytes, first, length => .write ((bytes.drop first).take length)

/-- How many line pieces a request gives (R43). -/
def Request.pieceCount (r : Request) : Nat :=
  (r.offset % 32 + r.access.count + 31) / 32

/-- Line piece k of a request, from 0 (R43). -/
def Request.piece (r : Request) (k : Nat) : Cut :=
  let first := max r.offset (32 * (r.offset / 32 + k))
  let last := min (r.offset + r.access.count) (32 * (r.offset / 32 + k + 1))
  { address := first % memorySize,
    access := Access.part r.access (first - r.offset) (last - first) }

/-- The line pieces in ascending address order (R43). -/
def Request.pieces (r : Request) : List Cut :=
  (List.range (Request.pieceCount r)).map (Request.piece r)

/-- Is the request's route the control window (R43, R46)? -/
def Request.isControl (r : Request) : Bool :=
  (Request.refusedWhole r).isNone && decide (controlBase ≤ r.offset % memorySize)

/-! ### Routing (R44 to R47) -/

/-- A write with every byte-enable clear (R44). -/
def Access.allClear : Access → Bool
  | .read _ => false
  | .write bytes => bytes.all Option.isNone

/-- The bytes of a write; none of a read. -/
def Access.bytes : Access → List (Option Byte)
  | .read _ => []
  | .write bytes => bytes

/-- A piece is placed in the passing stream, or counts as completed when it writes
nothing (R44, R49). -/
def State.place (s : State) (address : Nat) (access : Access) (stream : List Byte) :
    State × Part :=
  if Access.allClear access then (s, .served [])
  else
    ({ s with path := { s.path with
        passing := s.path.passing ++
          [{ serial := s.path.nextSerial, address := address, access := access,
             keystream := stream }],
        nextSerial := s.path.nextSerial + 1 } }, .waiting)

/-- A piece is refused (R47). -/
def State.refusePiece (s : State) (c : Cut) (counter : Fin 9) (reason : RefusalReason)
    (parcel : Option Nat) : State × Part :=
  (s.reportRefusal counter reason parcel, .notServed c.access.count)

/-- A piece is enciphered: each enabled byte XORed with its keystream byte (R29, R45). -/
def encipherAccess (access : Access) (stream : List Byte) : Access :=
  match access with
  | .read n => .read n
  | .write bytes => .write (applyKeystreamEnabled bytes stream)

/-- A window piece is decided by R23 and handled by R45. -/
def State.takeWindowPiece (s : State) (side : Alias) (w : WindowIndex) (e : Window) (p : Nat)
    (r : ParcelRecord) (c : Cut) : State × Part :=
  let inParcel := (c.address - e.base) % 2048
  let line := inParcel / 32
  let start := inParcel % 32
  let bytes := Access.bytes c.access
  let count := c.access.count
  let encipher := fun t : State =>
    t.place c.address (encipherAccess c.access (t.parcelKeystream w p line start count)) []
  let passed := s.place c.address c.access []
  match decideAccess side e.direction e.role (decide (line = 0)) c.access.isWrite r.state
      (isReleaseWrite start bytes) (isMarkerWrite start bytes) with
  | .refused reason => s.refusePiece c (windowCounter w) reason (some p)
  | .passes => passed
  | .opens =>
    match s.openParcel w p e.context .controller with
    | none => s.refusePiece c (windowCounter w) .noKey (some p)
    | some t => encipher t
  | .enciphered => encipher s
  | .deciphered => s.place c.address c.access (s.parcelKeystream w p line start count)
  | .releases => (passed.1.freeParcel w p, passed.2)
  | .arrives => (passed.1.updateParcel w p fun q => { q with state := .arriving }, passed.2)
  | .marks =>
    ((passed.1.updateParcel w p fun q => { q with state := .checking }).offerCheck w p, passed.2)

/-- Has a write piece an enabled byte whose control-window offset satisfies a test? -/
def enables (test : Nat → Bool) (offset : Nat) (bytes : List (Option Byte)) : Bool :=
  bytes.zipIdx.any fun b => b.1.isSome && test (offset + b.2)

/-- The refusal of a plain write piece of the control window (R169). -/
def State.controlRefusal (s : State) (offset : Nat) (bytes : List (Option Byte)) :
    Option RefusalReason :=
  if enables inPartOwnedArea offset bytes then some .readOnlyArea
  else if enables inCommandArea offset bytes ∧ s.command.phase ≠ .idle then some .commandBusy
  else none

/-- The command word a piece writes, when it enables all four of its bytes (R169, R170). -/
def commandWordOf (offset : Nat) (bytes : List (Option Byte)) : Option (Nat × Nat) :=
  match enabledAt offset bytes 0, enabledAt offset bytes 1, enabledAt offset bytes 2,
      enabledAt offset bytes 3 with
  | some a, some b, some c, some d => some (a.toNat, leValue [b, c, d])
  | _, _, _, _ => none

/-- What an accepted plain write piece causes beside its forwarding: a heartbeat
(R161), the taking of a command (R170). -/
def State.controlEffects (s : State) (offset : Nat) (bytes : List (Option Byte)) : State :=
  let s1 :=
    if enables inHeartbeatWord offset bytes ∧ s.mode = .running then s.takeHeartbeat else s
  match commandWordOf offset bytes with
  | none => s1
  | some (code, ticket) => s1.takeCommand code ticket

/-- A control-window piece is decided by the command unit (R168, R169). -/
def State.takeControlPiece (s : State) (side : Alias) (c : Cut) : State × Part :=
  match side, c.access with
  | .raw, _ => s.refusePiece c noWindowCounter .controlRaw none
  | .plain, .read _ => s.place c.address c.access []
  | .plain, .write bytes =>
    let offset := c.address - controlBase
    match s.controlRefusal offset bytes with
    | some reason => s.refusePiece c noWindowCounter reason none
    | none =>
      let placed := s.place c.address c.access []
      (placed.1.controlEffects offset bytes, placed.2)

/-- A piece is routed by the block it lies in (R43). -/
def State.takePiece (s : State) (side : Alias) (c : Cut) : State × Part :=
  if controlBase ≤ c.address then s.takeControlPiece side c
  else
    match s.locate c.address with
    | none => s.place c.address c.access []
    | some (w, p) =>
      match s.window w, s.parcel w p with
      | some e, some r => s.takeWindowPiece side w e p r c
      | _, _ => s.place c.address c.access []

/-- The pieces of a request are taken one after another (R43). -/
def State.takePieces : State → Alias → List Cut → State × List Part
  | s, _, [] => (s, [])
  | s, side, c :: rest =>
    let first := s.takePiece side c
    let others := State.takePieces first.1 side rest
    (others.1, first.2 :: others.2)

/-- A request refused whole: each would-be piece is one refusal on the no-window
counter (R41, R42). -/
def State.refuseWhole (s : State) (reason : RefusalReason) (cuts : List Cut) : State × List Part :=
  (cuts.foldl (fun t _ => t.reportRefusal noWindowCounter reason none) s,
    cuts.map fun c => .notServed c.access.count)

/-- A request is taken whole (R43): it waits for its response with its pieces. -/
def State.takeRequest (s : State) (r : Request) : State :=
  let taken :=
    match Request.refusedWhole r, aliasOf r.offset with
    | none, some side => s.takePieces side (Request.pieces r)
    | some reason, _ => s.refuseWhole reason (Request.pieces r)
    | none, none => s.refuseWhole .outOfRange (Request.pieces r)
  { taken.1 with path := { taken.1.path with
      outstanding := taken.1.path.outstanding ++ [{ request := r, parts := taken.2 }] } }

/-! ### Responses and receipts (R46, R48) -/

/-- Has the piece an end? -/
def Part.done : Part → Bool
  | .waiting => false
  | .served _ => true
  | .notServed _ => true

/-- Was the piece served? -/
def Part.ok : Part → Bool
  | .waiting => false
  | .served _ => true
  | .notServed _ => false

/-- The bytes a piece returns: zeros when not served (R48). -/
def Part.data : Part → List Byte
  | .waiting => []
  | .served data => data
  | .notServed n => List.replicate n 0

/-- The one response of a request (R48). -/
def Taken.response (t : Taken) : Response :=
  { request := t.request, ok := t.parts.all Part.ok,
    data := if t.request.access.isWrite then [] else (t.parts.map Part.data).flatten }

/-- Does piece k of a request return all four bytes of the post's ordinal word (R46)? -/
def Request.coversPost (r : Request) (k : Nat) : Bool :=
  let c := Request.piece r k
  decide (c.address ≤ postAddress) && decide (postAddress + 4 ≤ c.address + c.access.count)

/-- Is a response a receipt: a plain read with a served piece that covers the
post's ordinal word (R46, R168)? -/
def Taken.isReceipt (t : Taken) : Bool :=
  !t.request.access.isWrite && decide (aliasOf t.request.offset = some .plain) &&
    (Request.refusedWhole t.request).isNone &&
    t.parts.zipIdx.any fun x => x.1.ok && Request.coversPost t.request x.2

/-- The oldest taken request is answered; a receipt is reported as its data is
returned, and issues the counters write it calls for (R140, log 35), unless the part
is draining for RESTART (R46, R57). -/
def State.answerOne (s : State) (t : Taken) (rest : List Taken) : State :=
  let s1 := { s with
    path := { s.path with outstanding := rest }, responses := s.responses ++ [t.response] }
  if t.isReceipt ∧ s.mode = .running then s1.takeReceipt.issueCounters else s1

/-- Responses are returned in the order in which the requests were taken, each when
its last piece has ended (R48). -/
def State.answerAll : Nat → State → State
  | 0, s => s
  | n + 1, s =>
    match s.path.outstanding with
    | [] => s
    | t :: rest =>
      if t.parts.all Part.done then State.answerAll n (s.answerOne t rest) else s

/-- Answer what can be answered, and hand on what that causes. -/
def State.answer (s : State) : State :=
  (State.answerAll s.path.outstanding.length s).finish

/-! ### Taking waiting requests -/

/-- Has the passing stream room for all pieces of a request (R43, R49, log 9)? -/
def State.roomFor (s : State) (r : Request) : Bool :=
  (Request.refusedWhole r).isSome || decide (s.passingCount + Request.pieceCount r ≤ 32)

/-- May a control-window request be taken (R46)? -/
def State.controlFree (s : State) : Bool :=
  !s.fault.postFence && s.path.outstanding.all fun t => !Request.isControl t.request

/-- Is the request at the head of the port taken now (R43, R46, R55, R57)? -/
def State.takes (s : State) (r : Request) : Bool :=
  decide (s.mode = .running) && !s.path.hold && s.roomFor r &&
    (!Request.isControl r || s.controlFree)

/-- Waiting requests are taken in order of arrival while they can be (R43, log 7). -/
def State.takeWaitingFuel : Nat → State → State
  | 0, s => s
  | n + 1, s =>
    match s.path.port with
    | [] => s
    | r :: rest =>
      if s.takes r then
        let s1 := { s with path := { s.path with port := rest } }
        State.takeWaitingFuel n ((s1.takeRequest r).finish.answer)
      else s

/-- Take what can be taken from the port. -/
def State.takeWaiting (s : State) : State :=
  State.takeWaitingFuel s.path.port.length s

/-- A request arrives at the upstream port (R43). -/
def State.arrive (s : State) (r : Request) : State :=
  State.takeWaiting { s with path := { s.path with port := s.path.port ++ [r] } }

/-- The end of the oldest piece still waiting is noted in its request (R48, R50). -/
def fillParts : List Part → Part → List Part
  | [], _ => []
  | .waiting :: rest, x => x :: rest
  | p :: rest, x => p :: fillParts rest x

/-- The end of the oldest piece still waiting is noted (R48, R49). -/
def fillTaken : List Taken → Part → List Taken
  | [], _ => []
  | t :: rest, x =>
    if t.parts.all Part.done then t :: fillTaken rest x
    else { t with parts := fillParts t.parts x } :: rest

/-- What a completed passing piece returns (R30, R48, R50). -/
def State.pieceEnd (s : State) (p : Piece) (error : Bool) : Part :=
  if error then .notServed p.access.count
  else .served (applyKeystream (s.returned p.address p.access) p.keystream)

/-- The oldest granted access is a passing piece and completes (R49, R50). -/
def State.passingDone (s : State) (p : Piece) (rest : List Flight) (error : Bool) : State :=
  let s1 := { s with path := { s.path with
    flight := rest, outstanding := fillTaken s.path.outstanding (s.pieceEnd p error) } }
  (s1.complete p.address p.access error).answer.takeWaiting

/-! ### Meanings -/

/-- UPSTREAM_REQUEST (R43). -/
def execUpstreamRequest (r : Request) (s : State) : Host.Outcome State Fault Refusal :=
  if r.wellFormed then .next (s.arrive r) else .refused .notARequest

/-- The request of which a plain write piece of the control window is all (R183). -/
def controlWriteRequest (offset : Nat) (bytes : List (Option Byte)) : Request :=
  { offset := controlBase + offset, access := .write bytes }

/-- CONTROL_WINDOW_WRITE: a plain write request of one control-window piece (R169, log 6). -/
def execControlWindowWrite (offset : Nat) (bytes : List (Option Byte)) (s : State) :
    Host.Outcome State Fault Refusal :=
  if controlPieceWellFormed offset bytes then .next (s.arrive (controlWriteRequest offset bytes))
  else .refused .notARequest

/-- PASSING_PIECE_DONE (R50). -/
def execPassingPieceDone (error : Bool) (s : State) : Host.Outcome State Fault Refusal :=
  match s.path.flight with
  | .passing p :: rest => .next (s.passingDone p rest error)
  | _ => .next s

/-- DOWNSTREAM_GRANT (R53). A held part grants nothing (R56). -/
def execDownstreamGrant (s : State) : Host.Outcome State Fault Refusal :=
  if s.mode.held then .next s else .next s.grant

/-- RECEIPT: the memory path's report reaches the fault unit (R137, log 6). -/
def execReceipt (s : State) : Host.Outcome State Fault Refusal :=
  if s.mode = .running then .next s.takeReceipt.issueCounters.finish else .next s

/-- Can the pending posting issue its write (R136, R51)? Not before the start-up
read of the root fuse store has ended, which issues the first (R141). With the
internal stream full it takes no place among the requests that wait: those enter
first, whenever they were called for (log 37). -/
def State.postIssuable (s : State) : Bool :=
  decide (s.mode = .running) && s.fault.postPending && s.renewal.fuseReadDone &&
    s.path.outstanding.all (fun t => !Request.isControl t.request) &&
    decide (s.internalCount < 16)

/-- POST_WRITE_ISSUE (R136). -/
def execPostWriteIssue (s : State) : Host.Outcome State Fault Refusal :=
  if s.postIssuable then .next s.issuePost.finish else .next s

/-- POST_WRITE_DONE (R138). -/
def execPostWriteDone (error : Bool) (s : State) : Host.Outcome State Fault Refusal :=
  s.onCompletion (only .post) error fun _ t => (t.postWritten error).finish.takeWaiting

/-- COUNTERS_WRITE_DONE (R140). -/
def execCountersWriteDone (error : Bool) (s : State) : Host.Outcome State Fault Refusal :=
  s.onCompletion (only .counters) error fun _ t => t.countersWritten error

end Sys2Proof.Machine
end

