-- ==== Sys2Proof/Machine/Resets.lean ====
section
/-! DEFINITION. Resets, start-up, the test port (R55 to R57, R103, R141, R180, R184). -/

namespace Sys2Proof.Machine

/-! ### Every block takes its reset values (R55) -/

/-- The write of the result area that start-up issues (R55 step 2, R167, R180). -/
def startUpWrite (image : List Byte) : InternalRequest :=
  { startUpZeroWrite with access := wholeLine image }

/-- Every block takes its reset values and start-up begins, with the cause in the
STARTED record. Memory, the fuse store, the responses given and the requests
waiting on the upstream port stay (R55, R56, R57, R141). -/
def State.startUp (s : State) (cause : Cause) : State :=
  { State.reset with
    pending := s.pending, mem := s.mem, fuses := s.fuses, responses := s.responses,
    freeCount := s.freeCount,
    path := { State.reset.path with port := s.path.port },
    fault := { State.reset.fault with queue := [startedRecord cause] } }

/-- The RESTART ticket passes through the restart, and step 2 of start-up writes it
with result DONE (R57, R180). -/
def State.startUpAfterRestart (s : State) : State :=
  let ticket := s.command.restartTicket
  let t := s.startUp .restart
  { t with
    command := { t.command with
      resultTicket := ticket, resultStatus := .done, restartTicket := ticket },
    path := { t.path with internal := [startUpWrite (resultLine ticket .done 0)] } }

/-! ### Work in progress at a reset (R56) -/

/-- The error response of a request that a reset ends: zeros for read data (R56). -/
def Taken.ended (t : Taken) : Response :=
  { request := t.request, ok := false,
    data := match t.request.access with
      | .read n => List.replicate n 0
      | .write _ => [] }

/-- The address of a granted access. -/
def Flight.address : Flight → Nat
  | .passing p => p.address
  | .internal r => r.address

/-- What a granted access asks. -/
def Flight.access : Flight → Access
  | .passing p => p.access
  | .internal r => r.access

/-- The granted accesses run to their end at the memory controller, oldest first,
each ending as its flag says (R56, log 28). -/
def State.runFlights : State → List Flight → List Bool → State
  | s, [], _ => s
  | s, f :: rest, ends =>
    State.runFlights (s.complete f.address f.access (ends.headD false)) rest ends.tail

/-- What a reset-line assertion does to requests and accesses in progress: taken
requests are answered with an error, granted accesses run to their end with their
results discarded, and everything not granted is discarded (R56). -/
def State.dropWork (s : State) (ends : List Bool) : State :=
  let s1 := s.runFlights s.path.flight ends
  { s1 with
    responses := s1.responses ++ s1.path.outstanding.map Taken.ended,
    path := { s1.path with
      outstanding := [], passing := [], internal := [], unissued := [], flight := [] } }

/-! ### The root fuse store (R103, R141, R184) -/

/-- The STARTED record takes its detail B and office mark (R141, R125). -/
def completeStarted (provisioned : Bool) (r : FaultRecord) : FaultRecord :=
  if r.event.kind = .started then
    { r with event := { r.event with detailB := flag provisioned },
             office := if provisioned then .no else .notRequired }
  else r

/-- The hold clears when the fuse read has ended and the start-up write of the
result area has completed (R55 step 4). -/
def State.clearHold (s : State) : State :=
  { s with path := { s.path with
      hold := s.path.hold && !(s.renewal.fuseReadDone && s.path.startUpResultDone) } }

/-- The read of the root fuse store ends (R103, R141): the renewal unit's copy, the
STARTED record, its post write. -/
def State.fuseRead (s : State) : State :=
  let provisioned := decide (s.fuses.storeId ≠ 0)
  let s1 := { s with
    renewal := { s.renewal with
      storeId := s.fuses.storeId.toNat, wrapKey := s.fuses.wrapKey, provisioned := provisioned,
      fuseReadDone := true },
    fault := { s.fault with queue := s.fault.queue.map (completeStarted provisioned) } }
  s1.setGather.issuePost.clearHold

/-- Program fuse bits from zero to one, unless the lock bit is set (R184). -/
def FuseStore.program (f : FuseStore) (program : FuseProgram) : FuseStore :=
  if f.lock then f
  else
    match program with
    | .storeId bits => { f with storeId := f.storeId ||| bits }
    | .wrapKey bits => { f with wrapKey := f.wrapKey ||| bits }
    | .lockBit => { f with lock := true }

/-! ### Meanings -/

/-- POWER_ON (R55): a power-on reset finds no request in progress (R56, log 18), and
RESET_L counts as high once it has begun start-up, whatever it was before (log 40). -/
def execPowerOn (s : State) : Host.Outcome State Fault Refusal :=
  let t := s.startUp .powerOn
  .next { t with path := { t.path with port := [] } }

/-- RESET_LINE_ASSERTED (R56, R184). -/
def execResetLineAsserted (ends : List Bool) (s : State) : Host.Outcome State Fault Refusal :=
  match s.mode with
  | .running => .next { s.dropWork ends with mode := .resetLow }
  | .restarting => .next { s.dropWork ends with mode := .resetLow }
  | .scanHeld => .next { s with mode := .resetLow }
  | .resetLow => .next s

/-- RESET_LINE_RELEASED (R55). -/
def execResetLineReleased (s : State) : Host.Outcome State Fault Refusal :=
  if s.mode = .resetLow then .next (s.startUp .resetLine) else .next s

/-- BOUNDARY_SCAN_SELECTED (R184). -/
def execBoundaryScanSelected (ends : List Bool) (s : State) : Host.Outcome State Fault Refusal :=
  match s.mode with
  | .running => .next { s.dropWork ends with mode := .scanHeld }
  | .restarting => .next { s.dropWork ends with mode := .scanHeld }
  | .scanHeld => .next s
  | .resetLow => .next s

/-- FUSE_PROGRAMMING (R184): the renewal unit's copy is unchanged until the next reset. -/
def execFuseProgramming (program : FuseProgram) (s : State) : Host.Outcome State Fault Refusal :=
  .next { s with fuses := s.fuses.program program }

/-- ROOT_FUSE_STORE_READ (R103). -/
def execRootFuseStoreRead (s : State) : Host.Outcome State Fault Refusal :=
  if s.mode = .running ∧ s.renewal.fuseReadDone = false then .next s.fuseRead.finish.takeWaiting
  else .next s

/-- START_UP_RESULT_WRITE_DONE (R55): an error keeps nothing waiting and raises no
record (R167). -/
def execStartUpResultWriteDone (error : Bool) (s : State) : Host.Outcome State Fault Refusal :=
  s.onCompletion (only .startUpResult) error fun _ t =>
    (State.clearHold { t with path := { t.path with startUpResultDone := true } }).takeWaiting

/-- RESTART_RESET (R57): the passing stream is empty and no granted access remains. -/
def execRestartReset (s : State) : Host.Outcome State Fault Refusal :=
  if s.mode = .restarting ∧ s.path.passing = [] ∧ s.path.flight = [] then
    .next s.startUpAfterRestart
  else .next s

end Sys2Proof.Machine
end

