-- ==== Sys2Proof/Machine/Dispatch.lean ====
section
/-! DEFINITION. The meaning of every command: one arm for each constructor of Instr. -/

namespace Sys2Proof.Machine

/-- The effect of a command on everything but the queue. -/
def exec (i : Instr) (s : State) : Host.Outcome State Fault Refusal :=
  match i with
  | .powerOn => Sys2Proof.Machine.execPowerOn s
  | .resetLineAsserted ends => Sys2Proof.Machine.execResetLineAsserted ends s
  | .resetLineReleased => Sys2Proof.Machine.execResetLineReleased s
  | .boundaryScanSelected ends => Sys2Proof.Machine.execBoundaryScanSelected ends s
  | .fuseProgramming program => Sys2Proof.Machine.execFuseProgramming program s
  | .rootFuseStoreRead => Sys2Proof.Machine.execRootFuseStoreRead s
  | .startUpResultWriteDone error => Sys2Proof.Machine.execStartUpResultWriteDone error s
  | .upstreamRequest request => Sys2Proof.Machine.execUpstreamRequest request s
  | .controlWindowWrite offset bytes => Sys2Proof.Machine.execControlWindowWrite offset bytes s
  | .heartbeat => Sys2Proof.Machine.execHeartbeat s
  | .receipt => Sys2Proof.Machine.execReceipt s
  | .commandTaken code ticket => Sys2Proof.Machine.execCommandTaken code ticket s
  | .defineWindow => Sys2Proof.Machine.execDefineWindow s
  | .clearWindow => Sys2Proof.Machine.execClearWindow s
  | .setContext => Sys2Proof.Machine.execSetContext s
  | .setGrouping => Sys2Proof.Machine.execSetGrouping s
  | .setNotice => Sys2Proof.Machine.execSetNotice s
  | .setHeartbeat => Sys2Proof.Machine.execSetHeartbeat s
  | .sealParcel => Sys2Proof.Machine.execSeal s
  | .release => Sys2Proof.Machine.execRelease s
  | .activateNow => Sys2Proof.Machine.execActivateNow s
  | .retire => Sys2Proof.Machine.execRetire s
  | .purge ticket => Sys2Proof.Machine.execPurge ticket s
  | .snapshot => Sys2Proof.Machine.execSnapshot s
  | .restart ticket => Sys2Proof.Machine.execRestart ticket s
  | .restartReset => Sys2Proof.Machine.execRestartReset s
  | .argumentReadFailed => Sys2Proof.Machine.execArgumentReadFailed s
  | .resultWriteDone error => Sys2Proof.Machine.execResultWriteDone error s
  | .snapshotWriteDone error => Sys2Proof.Machine.execSnapshotWriteDone error s
  | .passingPieceDone error => Sys2Proof.Machine.execPassingPieceDone error s
  | .downstreamGrant => Sys2Proof.Machine.execDownstreamGrant s
  | .sealReadbackDone error => Sys2Proof.Machine.execSealReadbackDone error s
  | .headLineWriteDone error => Sys2Proof.Machine.execHeadLineWriteDone error s
  | .checkHeadLineRead error => Sys2Proof.Machine.execCheckHeadLineRead error s
  | .checkPayloadRead error => Sys2Proof.Machine.execCheckPayloadRead error s
  | .renewalHeadLineRead error => Sys2Proof.Machine.execRenewalHeadLineRead error s
  | .renewalPayloadRead error => Sys2Proof.Machine.execRenewalPayloadRead error s
  | .importReadDone error => Sys2Proof.Machine.execImportReadDone error s
  | .postWriteIssue => Sys2Proof.Machine.execPostWriteIssue s
  | .postWriteDone error => Sys2Proof.Machine.execPostWriteDone error s
  | .countersWriteDone error => Sys2Proof.Machine.execCountersWriteDone error s
  | .noticeImageWriteDone error => Sys2Proof.Machine.execNoticeImageWriteDone error s
  | .tick => Sys2Proof.Machine.execTick s
  | .activationMarkReached slot => Sys2Proof.Machine.execActivationMarkReached slot s
  | .expiryMarkReached slot => Sys2Proof.Machine.execExpiryMarkReached slot s
  | .renewalDueMarkReached slot => Sys2Proof.Machine.execRenewalDueMarkReached slot s
  | .drainDeadlineReached slot => Sys2Proof.Machine.execDrainDeadlineReached slot s
  | .gatherMarkReached => Sys2Proof.Machine.execGatherMarkReached s
  | .retryMarkReached => Sys2Proof.Machine.execRetryMarkReached s
  | .heartbeatMarkReached => Sys2Proof.Machine.execHeartbeatMarkReached s
  | .linkSilenceMarkReached context => Sys2Proof.Machine.execLinkSilenceMarkReached context s

end Sys2Proof.Machine
end

