-- ==== Sys2Proof/Safety.lean ====
section
/-! DEFINITION. The words the statements use: what holds between steps, how a step ends, and what a completed access leaves in memory. -/

namespace Sys2Proof.Machine

/-! ### Between steps -/

/-- Between steps nothing is in transit (log 16). -/
abbrev Settled (s : State) : Prop :=
  s.transit = Transit.empty

/-- A running part between steps. -/
abbrev Quiet (s : State) : Prop :=
  s.mode = .running ∧ Settled s

/-- Would an examination of the composer start a notice: all conditions of R147 hold? -/
def State.noticeCalled (s : State) : Bool :=
  decide (s.composer.phase = .idle) &&
    match s.noticeWindow with
    | none => false
    | some w =>
      match s.window w with
      | none => false
      | some e => s.retryClear && s.recordsCall && s.ringParcelFree w &&
          (s.chooseContext e.context).isSome

/-- The requests the blocks have issued and that are not granted, in order: those
in the internal stream, then those that wait for its room (R51). -/
def State.requests (s : State) : List InternalRequest :=
  s.path.internal ++ s.path.unissued

/-! ### How a step ends -/

/-- t holds b's requests with `new` behind them, and nothing else but, at the end,
a counters write, which an event of any step may issue (R140). -/
def Issues (b t : State) (new : List InternalRequest) : Prop :=
  t.path = { b.path with internal := t.path.internal, unissued := t.path.unissued } ∧
    ∃ more, t.requests = b.requests ++ new ++ more ∧ ∀ r ∈ more, r.purpose = .counters

/-- t's fault unit is b's after it took `events` in order (R123), and the gather
mark followed (R145); the three marks of the counters write aside, the composer
and the fault unit are otherwise as in b. -/
def Told (b t : State) (events : List FaultEvent) : Prop :=
  let u := events.foldl State.takeEvent b
  t.fault = { u.fault with
      countersStale := t.fault.countersStale, countersWanted := t.fault.countersWanted,
      countersWriting := t.fault.countersWriting } ∧
    t.composer = { b.composer with gather := u.composer.gather }

/-- No examination starts a notice while b's fault unit takes `events` (R146). -/
abbrev NoNotice (b : State) (events : List FaultEvent) : Prop :=
  ∀ k, k ≤ events.length → ((events.take k).foldl State.takeEvent b).noticeCalled = false

/-- The step ends in t, unless a notice starts at its end: b, with requests issued
and events told, and everything else of the state as in b. -/
def EndsAs (b t : State) (new : List InternalRequest) (events : List FaultEvent) : Prop :=
  NoNotice b events →
    t = { b with path := t.path, fault := t.fault, composer := t.composer,
                 transit := Transit.empty } ∧
      Issues b t new ∧ Told b t events

/-! ### Completions -/

/-- The oldest granted access is an internal request for a purpose, whose issuer
still wants its result. -/
abbrev Oldest (s : State) (p : Purpose) (r : InternalRequest) (rest : List Flight) : Prop :=
  s.path.flight = .internal r :: rest ∧ r.purpose = p ∧ r.ignored = false

/-- s after the oldest granted access has completed: memory has its effect and the
access is gone. -/
def State.landed (s : State) (r : InternalRequest) (rest : List Flight) (error : Bool) : State :=
  State.complete { s with path := { s.path with flight := rest } } r.address r.access error

/-- An address outside the bytes a run names. -/
abbrev Outside (y address count : Nat) : Prop :=
  ∀ k, k < count → y ≠ (address + k) % memorySize

/-- What a completed write leaves: bytes it does not name, and bytes it names with
their enable clear, are unchanged; without an error every enabled byte is stored. -/
def WriteLands (m m' : Memory) (address : Nat) (bytes : List (Option Byte)) (error : Bool) : Prop :=
  (∀ y, Outside y address bytes.length → m'.read y = m.read y) ∧
    (∀ k, bytes[k]? = some none → m'.read (address + k) = m.read (address + k)) ∧
    (error = false → ∀ k v, bytes[k]? = some (some v) → m'.read (address + k) = v)

/-! ### Upstream requests -/

/-- The oldest request taken and not answered still waits for a piece (R48). -/
abbrev Unanswered (s : State) : Prop :=
  ∀ x ∈ s.path.outstanding.head?, x.parts.all Part.done = false

/-- A request that arrives at the upstream port now is taken now: the hold is
clear, no request waits, the passing stream has room for its pieces, and a
control-window request finds no other unanswered and the post fence clear (R43,
R46, R55). -/
abbrev Ready (s : State) (r : Request) : Prop :=
  s.path.hold = false ∧ s.path.port = [] ∧ Unanswered s ∧
    s.passingCount + (Request.pieceCount r) ≤ 32 ∧
    ((Request.isControl r) = true → s.fault.postFence = false ∧
      ∀ x ∈ s.path.outstanding, (Request.isControl x.request) = false)

/-- The pieces of a request in the passing stream as they came, with no cipher. -/
def State.asPieces (s : State) (cuts : List Cut) : List Piece :=
  cuts.zipIdx.map fun x =>
    { serial := s.path.nextSerial + x.2, address := x.1.address, access := x.1.access,
      keystream := [] }

/-- s with pieces placed in the passing stream and their request waiting for them. -/
def State.waitsFor (s : State) (r : Request) (pieces : List Piece) (parts : List Part) : State :=
  { s with path := { s.path with
      passing := s.path.passing ++ pieces, nextSerial := s.path.nextSerial + pieces.length,
      outstanding := s.path.outstanding ++ [{ request := r, parts := parts }] } }

/-- s once the one request that waits on its port has been taken, each piece placed as
it came. -/
def State.tookWaiting (s : State) (r : Request) : State :=
  State.waitsFor { s with path := { s.path with port := [] } } r (s.asPieces (Request.pieces r))
    ((Request.pieces r).map fun _ => .waiting)

/-- Request r waits alone on the port of s, nothing holds it back any longer (R43, R46,
R55), and its pieces pass as they came: it lies in open memory, or it reads the
control window under the plain alias. -/
abbrev Takeable (s : State) (r : Request) : Prop :=
  s.path.port = [r] ∧ Ready { s with path := { s.path with port := [] } } r ∧
    r.wellFormed = true ∧ Request.refusedWhole r = none ∧
    (∀ c ∈ Request.pieces r, Access.allClear c.access = false) ∧
    ((Request.isControl r) = true → r.access.isWrite = false ∧ r.offset < 16777216) ∧
    ((Request.isControl r) = false → ∀ w, ∀ e ∈ s.window w,
      r.offset % 16777216 + r.access.count ≤ e.base ∨
        e.base + 2048 * e.count ≤ r.offset % 16777216)

/-- s after a response. -/
def State.answered (s : State) (r : Request) (ok : Bool) (data : List Byte) : State :=
  { s with responses := s.responses ++ [{ request := r, ok := ok, data := data }] }

/-- The bytes a request returns when none of it is served: zeros for a read (R48). -/
def Request.zeros (r : Request) : List Byte :=
  if r.access.isWrite then [] else List.replicate r.access.count 0

/-- The request is one line piece of parcel p, whose record is q, of window w. -/
abbrev OnePiece (s : State) (r : Request) (side : Alias) (w : WindowIndex) (e : Window) (p : Nat)
    (q : ParcelRecord) : Prop :=
  r.wellFormed = true ∧ (Request.refusedWhole r) = none ∧ (Request.isControl r) = false ∧ (Request.pieceCount r) = 1 ∧
    aliasOf r.offset = some side ∧ s.locate (r.offset % memorySize) = some (w, p) ∧
    s.window w = some e ∧ s.parcel w p = some q

/-- t's refusal counters and fault queue are s's after n pieces were refused on
counter x: a counter that stands goes on counting, one at 0 starts a run whose
record joins the queue, or loses its event to a full queue (R131). -/
def Refused (s t : State) (x : Fin 9) (n : Nat) (reason : RefusalReason) (parcel : Option Nat) :
    Prop :=
  (∀ y, y ≠ x → t.counter y = s.counter y) ∧
    ((s.counter x).value ≠ 0 →
      t.counter x = { s.counter x with value := min 65535 ((s.counter x).value + n) } ∧
        t.fault.queue = s.fault.queue ∧ t.fault.attn = s.fault.attn) ∧
    ((s.counter x).value = 0 → s.fault.queue.length < 8 →
      t.counter x = { value := n, firstReason := some reason, firstParcel := parcel,
                      link := some s.fault.nextOrdinal } ∧
        t.fault.queue = s.fault.queue ++ [s.newRecord (s.refusedAccessEvent x reason parcel)] ∧
        t.fault.attn = true) ∧
    ((s.counter x).value = 0 → 8 ≤ s.fault.queue.length →
      t.counter x = RefusalCounter.zero ∧ t.fault.queue = s.fault.queue ∧
        t.fault.lostTotal = min 4294967295 (s.fault.lostTotal + n))

/-- s after its fault unit has taken n refusals of one kind. -/
def State.afterRefusals (s : State) (x : Fin 9) (reason : RefusalReason) (parcel : Option Nat) :
    Nat → State
  | 0 => s
  | n + 1 => (s.afterRefusals x reason parcel n).takeRefusal x reason parcel

/-- The step ends in t, unless a notice starts at its end: b, with n refusals
counted; beside the fault unit, the gather mark and a counters write, everything is
as in b. -/
def EndsRefused (b t : State) (x : Fin 9) (n : Nat) (reason : RefusalReason)
    (parcel : Option Nat) : Prop :=
  (∀ k, k ≤ n → (b.afterRefusals x reason parcel k).noticeCalled = false) →
    t = { b with path := t.path, fault := t.fault,
                 composer := { b.composer with gather := t.composer.gather },
                 transit := Transit.empty } ∧
      Issues b t [] ∧ Refused b t x n reason parcel

/-- The pieces of a request that lies in parcel p of window w are taken one after
another, each on the state the one before it left: the state after the last, and how
each piece stands (R43, R45). -/
def State.tookEach (side : Alias) (w : WindowIndex) (p : Nat) :
    State → List Cut → State × List Part
  | s, [] => (s, [])
  | s, c :: rest =>
    match s.window w, s.parcel w p with
    | some e, some q =>
      let first := s.takeWindowPiece side w e p q c
      let others := State.tookEach side w p first.1 rest
      (others.1, first.2 :: others.2)
    | _, _ => (s, [])

/-- b once its fault unit has taken the first n reports that stand to be handed on
(R123, R131). -/
def State.told (b : State) (n : Nat) : State :=
  (b.transit.reports.take n).foldl State.takeReport { b with transit := Transit.empty }

/-- The step ends in t, unless a notice starts at its end: b, with the reports it hands
on taken in order; beside the fault unit, the gather mark and a counters write,
everything is as in b. -/
def HandsOn (b t : State) : Prop :=
  let n := b.transit.reports.length
  (∀ k, k ≤ n → (b.told k).noticeCalled = false) →
    t = { b with path := t.path, fault := t.fault, composer := t.composer,
                 transit := Transit.empty } ∧
      Issues b t [] ∧
      t.fault = { (b.told n).fault with
        countersStale := t.fault.countersStale, countersWanted := t.fault.countersWanted,
        countersWriting := t.fault.countersWriting } ∧
      t.composer = { b.composer with gather := (b.told n).composer.gather }

/-! ### The counters area -/

/-- The counters write with the values of s (R140, R183). -/
def State.countersWrite (s : State) (orderPoint : Nat) : InternalRequest :=
  { purpose := .counters, ignored := false, address := 0xFFF080, orderPoint := orderPoint,
    access := wholeLine
      (leBytes 4 s.fault.lostTotal ++ leBytes 4 s.fault.lostSinceSummary ++
        leBytes 4 s.composer.published ++
        ([0, 1, 2, 3, 4, 5, 6, 7, 8].map fun x => leBytes 2 (s.counter x).value).flatten ++
        [0, 0]) }

/-- t has issued the counters write with the values of v behind b's requests, and the
image is current (R140). -/
def WritesCounters (b v t : State) : Prop :=
  t.requests = b.requests ++ [v.countersWrite b.path.nextSerial] ∧
    t.fault.countersWriting = true ∧ t.fault.countersStale = false ∧
    t.fault.countersWanted = false

/-! ### Changeover -/

/-- No two usable slots of one context are both ACTIVE or both DRAINING (R81). -/
abbrev OneEach (s : State) : Prop :=
  ∀ i j : SlotId, i ≠ 0 → j ≠ 0 → (s.slot i).context = (s.slot j).context →
    (s.slot i).state = (s.slot j).state →
    (s.slot i).state = .active ∨ (s.slot i).state = .draining → i = j

/-- Does the new ACTIVE slot h of context c meet renewal due at its activation (R94)? -/
def State.dueAtActivation (s : State) (c : Ctx) (h : SlotId) : Bool :=
  let k := s.slot h
  let set := (s.context c).settings
  let mark := ahead s.time.tick k.lifetime - BitVec.ofNat 32 set.reserveTicks
  !k.renewalDueRaised &&
    (decide (k.budget - k.usage ≤ set.reserveParcels) || reached s.time.tick mark) &&
    (s.slotsIn c .staged).all fun j => decide (j = h)

/-- Slot i after context c has changed over to slot h: the new generation is
ACTIVE with its marks, the old one drains, and the one that drained leaves (R89). -/
def State.changedSlot (s : State) (c : Ctx) (h i : SlotId) : KeySlot :=
  let k := s.slot i
  let set := (s.context c).settings
  if i = h then
    let expiry := ahead s.time.tick k.lifetime
    let mark := expiry - BitVec.ofNat 32 set.reserveTicks
    { k with
      state := .active, activated := true, expiryMark := expiry, expiryLatch := false,
      renewalDueMark := mark, renewalDueLatch := reached s.time.tick mark,
      renewalDueRaised := k.renewalDueRaised || s.dueAtActivation c h }
  else if s.activeSlot c = some i then
    { k with state := .draining, drainLatch := false,
             drainDeadline := ahead s.time.tick set.drainPeriod }
  else if s.drainingSlot c = some i then
    (if k.references = 0 then KeySlot.blank else { k with state := .retiring })
  else k

/-- The level of a hold line by the remaining budget of an ACTIVE generation (R99). -/
def ContextRow.levelAt (row : ContextRow) (left : Nat) : Bool :=
  if left < row.settings.holdLow then true
  else if row.settings.holdHigh ≤ left then false
  else row.holdLine

/-- s with context c changed over to slot h. -/
def State.changedOver (s : State) (c : Ctx) (h : SlotId) : State :=
  { s with keys := { s.keys with
      slots := Vector.ofFn (s.changedSlot c h),
      contexts := s.keys.contexts.set c { s.context c with
        holdLine := (s.context c).levelAt ((s.slot h).budget - (s.slot h).usage) } } }

/-- The events of a changeover of context c to slot h, in order: KEY_CHANGED with
the old generation, and RENEWAL_DUE when it is due at once (R89, R94). -/
def State.changeoverEvents (s : State) (c : Ctx) (h : SlotId) : List FaultEvent :=
  let k := s.slot h
  let old := match s.activeSlot c with
    | none => 0
    | some a => (s.slot a).generation
  keyEvent .keyChanged c k.generation old 0 ::
    if s.dueAtActivation c h then
      [keyEvent .renewalDue c k.generation (k.budget - k.usage)
        (ahead s.time.tick k.lifetime - s.time.tick).toNat]
    else []

/-- s after changeovers made one after another, each of a context to a slot. -/
def State.changedAll : State → List (Ctx × SlotId) → State
  | s, [] => s
  | s, m :: rest => (s.changedOver m.1 m.2).changedAll rest

/-- The events of changeovers made one after another. -/
def State.changedAllEvents : State → List (Ctx × SlotId) → List FaultEvent
  | _, [] => []
  | s, m :: rest => s.changeoverEvents m.1 m.2 ++ (s.changedOver m.1 m.2).changedAllEvents rest

/-- The other contexts of c's group whose staged head has mode WITH_GROUP, ascending,
each with that head (R84, R91). -/
def State.followers (s : State) (c : Ctx) : List (Ctx × SlotId) :=
  (s.keys.grouping.group c).filterMap fun d =>
    match s.stagedHead d with
    | none => none
    | some h => if d ≠ c ∧ (s.slot h).mode = .withGroup then some (d, h) else none

/-- Is slot i an AT_MARK generation whose mark has been reached, so that its own
trigger applies once it is staged head (R118, R120)? -/
abbrev Triggers (s : State) (i : SlotId) : Prop :=
  (s.slot i).mode = .atMark ∧ (s.slot i).activationLatch = true

/-- The changeovers that a changeover of context c brings about, in their order. Either
it and its group's, while no slot they promote applies its own trigger (R91), or, with
no group to follow, it and that of the tail it promotes, whose trigger applies (R120). -/
def Cascades (s : State) (c : Ctx) (changes : List (Ctx × SlotId)) : Prop :=
  ∃ h : SlotId, s.stagedHead c = some h ∧
    (changes = (c, h) :: s.followers c ∧
        (∀ m ∈ changes, ∀ j ∈ s.slotsIn m.1 .staged, j ≠ m.2 → ¬Triggers s j) ∨
      s.followers c = [] ∧ ∃ j : SlotId, j ≠ h ∧ Triggers s j ∧
        (∀ x, x ∈ s.slotsIn c .staged ↔ x = h ∨ x = j) ∧ changes = [(c, h), (c, j)])

/-- A slot that leaves service (R86, R92). -/
def KeySlot.gone (k : KeySlot) : KeySlot :=
  if k.references = 0 then KeySlot.blank else { k with state := .retiring }

/-! ### Opening a parcel -/

/-- A slot after it has opened a parcel: it has issued its sequence, and the open that
makes the usage equal to the budget has exhausted it (R87, R88). -/
def KeySlot.opened (k : KeySlot) : KeySlot :=
  { k with nextSequence := k.nextSequence + 1, usage := k.usage + 1,
           references := k.references + 1,
           budgetExhaustedRaised := k.budgetExhaustedRaised || decide (k.usage + 1 = k.budget) }

/-- s once slot i has opened parcel p of window w for an owner (R7, R87). -/
def State.opened (s : State) (w : WindowIndex) (p : Nat) (i : SlotId) (owner : Owner) : State :=
  { s.updateParcel w p fun x =>
      { x with state := .filling, owner := some owner, slot := some i,
               sequence := some (s.slot i).nextSequence } with
    keys := { s.keys with slots := s.keys.slots.set i (s.slot i).opened } }

/-- BUDGET_EXHAUSTED, when this open exhausts slot i of context c for the first time (R88). -/
def State.exhaustEvents (s : State) (c : Ctx) (i : SlotId) : List FaultEvent :=
  let k := s.slot i
  if k.usage + 1 = k.budget ∧ k.budgetExhaustedRaised = false then
    [keyEvent .budgetExhausted c k.generation 0 0]
  else []

/-- Is renewal due by this open of slot i, which stays ACTIVE in context c (R94)? -/
def State.dueByOpen (s : State) (c : Ctx) (i : SlotId) : Bool :=
  let k := s.slot i
  !k.renewalDueRaised &&
    (decide (k.budget - (k.usage + 1) ≤ (s.context c).settings.reserveParcels) ||
      k.renewalDueLatch) &&
    (s.slotsIn c .staged).isEmpty

/-- s once slot i of context c, which stays ACTIVE, has opened parcel p of window w:
renewal due and the hold line are evaluated (R87). -/
def State.openedOn (s : State) (w : WindowIndex) (p : Nat) (c : Ctx) (i : SlotId)
    (owner : Owner) : State :=
  let k := s.slot i
  { s.opened w p i owner with keys := { s.keys with
      slots := s.keys.slots.set i
        { k.opened with renewalDueRaised := k.renewalDueRaised || s.dueByOpen c i },
      contexts := s.keys.contexts.set c
        { s.context c with holdLine := (s.context c).levelAt (k.budget - (k.usage + 1)) } } }

/-- The usable ACTIVE slot i of context c opens parcel p of window w for an owner: o is
s once that and what follows it in the key table have happened, and `events` are told.
The slot stays ACTIVE when it is not exhausted or nothing is staged; an exhausted one
changes over to the staged head (R87, R88). -/
def Opens (s : State) (w : WindowIndex) (p : Nat) (c : Ctx) (i : SlotId) (owner : Owner)
    (o : State) (events : List FaultEvent) : Prop :=
  let k := s.slot i
  s.activeSlot c = some i ∧ k.nextSequence ≤ 4294967295 ∧
    ((k.usage + 1 < k.budget ∨ k.usage + 1 = k.budget ∧ s.stagedHead c = none) ∧
        o = s.openedOn w p c i owner ∧
        events = s.exhaustEvents c i ++
          (if s.dueByOpen c i then
            [keyEvent .renewalDue c k.generation (k.budget - (k.usage + 1)) (s.remainingTicks k)]
           else []) ∨
      k.usage + 1 = k.budget ∧ OneEach s ∧ ∃ changes, Cascades s c changes ∧
        o = (s.opened w p i owner).changedAll changes ∧
        events = s.exhaustEvents c i ++ (s.opened w p i owner).changedAllEvents changes)

/-! ### Commands of the control window -/

/-- The argument read of the command in progress has returned the words and is the
oldest granted access, and the command's code is `code`. -/
def ArgumentsRead (s : State) (code : Nat) (words : List Nat) (rest : List Flight) : Prop :=
  ∃ r, Oldest s .argument r rest ∧ s.command.phase = .readingArguments ∧
    s.command.code = code ∧ words = argumentWords (s.returned r.address r.access)

/-- The write of the result area (R172, R183). -/
def State.resultWrite (s : State) (ticket : Nat) (status : Status) (detail : Nat) :
    InternalRequest :=
  { purpose := .result, ignored := false, address := 0xFFF020,
    access := wholeLine (resultLine ticket status detail), orderPoint := s.path.nextSerial }

/-- s once the argument read has returned and the command has ended with a status
and a detail: the result to write is set and the phase is WRITING_RESULT (R171). -/
def State.ended (s : State) (words : List Nat) (rest : List Flight) (status : Status)
    (detail : Nat) : State :=
  { s with
    path := { s.path with flight := rest },
    command := { s.command with
      phase := .writingResult, arguments := words, resultTicket := s.command.ticket,
      resultStatus := status, resultDetail := detail, snapshot := none } }

/-- A step that performs command c ends it with a status and a detail: it goes to
b, with requests issued, the write of the result behind them, and events told. -/
def EndsCommand (s : State) (c : Instr) (b : State) (new : List InternalRequest)
    (status : Status) (detail : Nat) (events : List FaultEvent) : Prop :=
  ∃ t, exec c s = .next t ∧
    EndsAs b t (new ++ [s.resultWrite s.command.ticket status detail]) events

/-! ### Jobs, imports and notices -/

/-- The tag engine runs a job, whose parcel is q of window e, and nothing else
waits in it: the end of the job starts no other. -/
abbrev JobRuns (s : State) (run : Running) (e : Window) (q : ParcelRecord) : Prop :=
  s.tag = { queue := [], running := some run, deferred := [], waitingSeal := none } ∧
    s.window run.job.window = some e ∧ s.parcel run.job.window run.job.parcel = some q

/-- s with one parcel record changed. -/
def State.withParcel (s : State) (w : WindowIndex) (p : Nat) (q : ParcelRecord) : State :=
  { s with windows := (s.updateParcel w p fun _ => q).windows }

/-- s once the parcel whose record is q has gone FREE and handed its slot back (R19). -/
def State.withoutParcel (s : State) (w : WindowIndex) (p : Nat) (q : ParcelRecord) : State :=
  { s.withParcel w p ParcelRecord.blank with
    keys :=
      match q.slot with
      | none => s.keys
      | some i => (s.updateSlot i fun k =>
          if k.state = .retiring ∧ k.references ≤ 1 then KeySlot.blank
          else { k with references := k.references - 1 }).keys }

/-- s once its running job has ended and nothing else waited: its requests not in
the stream are not issued and the results of the others are ignored (R62). -/
def State.withoutJob (s : State) : State :=
  { s.discard tagPurpose with
    tag := { queue := [], running := none, deferred := [], waitingSeal := none } }

/-- The payload lines that a length fills. -/
def ParcelRecord.lines (q : ParcelRecord) : Nat :=
  (q.length.getD 0 + 31) / 32

/-- Does a job write a head line (R58)? -/
def JobKind.seals (k : JobKind) : Bool :=
  decide (k = .sealData) || decide (k = .sealNotice)

/-- Job j as it starts to run, its parcel being q (R63, R66). -/
def Job.started (j : Job) (q : ParcelRecord) : Running :=
  { job := j, head := none, payload := [], linesLeft := if j.kind.seals then q.lines else 0 }

/-- The reads of payload lines 1 to n of a parcel. -/
def lineReads (purpose : Purpose) (e : Window) (p n orderPoint : Nat) : List InternalRequest :=
  (List.range n).map fun k =>
    { purpose := purpose, ignored := false, address := e.base + 2048 * p + 32 * (k + 1),
      access := .read 32, orderPoint := orderPoint }

/-- The read of a parcel's head line. -/
def headRead (purpose : Purpose) (e : Window) (p orderPoint : Nat) : InternalRequest :=
  { purpose := purpose, ignored := false, address := e.base + 2048 * p, access := .read 32,
    orderPoint := orderPoint }

/-- What job j issues as it starts, its parcel being q of window e (R63, R66, R73). -/
def Job.reads (j : Job) (e : Window) (q : ParcelRecord) : List InternalRequest :=
  match j.kind with
  | .check => [headRead .checkHead e j.parcel j.orderPoint]
  | .checkRenewal => [headRead .renewalHead e j.parcel j.orderPoint]
  | _ => lineReads .sealRead e j.parcel q.lines j.orderPoint

/-- The job of the deferred parcel p of window w, which is given an entry now (R13, R61). -/
def State.deferredJob (s : State) (w : WindowIndex) (p : Nat) : Job :=
  { window := w, parcel := p, orderPoint := s.path.nextSerial,
    kind := if (s.window w).any (fun e => decide (e.role = .renewal)) then .checkRenewal
            else .check }

/-- s with the parcels of a list no longer marked deferred, and those that hold a slot
FREE: what a purge leaves of the parcel records (R19, R21, R61). -/
def State.purgedWindows (s : State) (given : List (WindowIndex × Nat)) :
    Vector (Option Window) 8 :=
  Vector.ofFn fun w => (s.window w).map fun e =>
    { e with parcels := e.parcels.mapIdx fun p q =>
        let x := if p < e.count ∧ q.slot.isSome = true then ParcelRecord.blank else q
        if (w, p) ∈ given then { x with deferred := false } else x }

/-- A tag engine record about a parcel. -/
def parcelEvent (kind : RecordKind) (j : Job) (context generation : Option Nat) (a b : Nat) :
    FaultEvent :=
  { kind := kind, context := context, window := some j.window.val, parcel := some j.parcel,
    generation := generation, detailA := a, detailB := b }

/-- The records of some ordinals, given an office mark. -/
def marked (queue : List FaultRecord) (ordinals : List Nat) (m : OfficeMark) : List FaultRecord :=
  queue.map fun r => if r.ordinal ∈ ordinals then { r with office := m } else r

/-- The gather mark by the oldest record at NO (R145). -/
def State.gatherBy (s : State) (queue : List FaultRecord) : Mark :=
  match queue.filter fun r => decide (r.office = .no) with
  | [] => { value := none, latch := false }
  | r :: _ => { value := some (ahead r.tick s.composer.gatherTime),
                latch := decide (s.composer.gatherTime ≤ r.age) }

/-- s once its notice has failed by a downstream error: the records are at NO
again and the retry mark is set (R154). -/
def State.noticeReturned (s : State) (n : Notice) : State :=
  let queue := marked s.fault.queue n.ordinals .no
  { s with
    fault := { s.fault with queue := queue },
    composer := { s.composer with
      phase := .idle, notice := none, gather := s.gatherBy queue,
      retry := { value := some (ahead s.time.tick (max 1 s.composer.gatherTime)),
                 latch := false } } }

/-- s once a notice that was in progress has been dropped by a purge: its records are at
NO again, its image writes are ignored, and no retry mark is set (R155). -/
def State.noticeDropped (s : State) : State :=
  match s.composer.notice with
  | none => s
  | some n =>
    let queue := marked s.fault.queue n.ordinals .no
    { s.discard (fun p => decide (p = .noticeImage)) with
      fault := { s.fault with queue := queue },
      composer := { s.composer with phase := .idle, notice := none, gather := s.gatherBy queue } }

/-- The tag of a parcel by R33 to R37. -/
def tagBy (hashKey : Nat) (key : Key) (context direction generation sequence : Nat)
    (payload : List Byte) (kind station length : Nat) : Nat :=
  let mask := firstWord
    (encipherBlock key (counterBlock context direction generation sequence 0 0)) % 2147483647
  let header := [kind * 16777216 + context * 65536 + generation, sequence, station, length]
  (accumulate hashKey (payloadWords (payload.take length) ++ header) + mask) % 2147483647

/-- Slot i is the one a head line's context and generation resolve to (R68). -/
abbrev Resolves (s : State) (context generation : Nat) (i : SlotId) : Prop :=
  i ≠ 0 ∧ (s.slot i).context.val = context ∧ (s.slot i).generation = generation ∧
    ((s.slot i).state = .active ∨ (s.slot i).state = .draining ∨
      (s.slot i).state = .staged ∧ (s.slot i).mode = .onPeerUse ∧
        s.stagedHead (s.slot i).context = some i)

/-- A step that runs command c goes to b, with requests issued and events told. -/
def GoesTo (s : State) (c : Instr) (b : State) (new : List InternalRequest)
    (events : List FaultEvent) : Prop :=
  ∃ t, exec c s = .next t ∧ EndsAs b t new events

/-! ### Invariants -/

/-- Memory has its canonical form. -/
abbrev MemoryCanonical (s : State) : Prop :=
  s.mem.wf = true

/-- ATTN is asserted exactly when some record has not been taken (R139). -/
abbrev AttnFollows (s : State) : Prop :=
  s.fault.attn = true ↔ ∃ r ∈ s.fault.queue, r.hostTaken = false

/-- The null slot is EMPTY with every field zero (R78). -/
abbrev NullSlotBlank (s : State) : Prop :=
  s.slot 0 = KeySlot.blank

/-- The bounds of the queues and streams: 8 records (R126), 16 waiting jobs (R58),
16 internal requests (R51), 32 pieces (R49). -/
abbrev WithinBounds (s : State) : Prop :=
  s.fault.queue.length ≤ 8 ∧ s.tag.queue.length ≤ 16 ∧ s.internalCount ≤ 16 ∧
    s.passingCount ≤ 32

/-- A window as DEFINE_WINDOW lets it be defined, with a record for each parcel (R1, R2, R4). -/
abbrev WindowLaidOut (e : Window) : Prop :=
  e.base % 2048 = 0 ∧ 1 ≤ e.count ∧ e.count ≤ 64 ∧ e.base + 2048 * e.count ≤ 16773120 ∧
    e.parcels.length = e.count ∧ ¬(e.role = .notice ∧ e.direction = .inbound) ∧
    ¬(e.role = .renewal ∧ e.direction = .outbound)

/-- Every valid window is laid out so, no two share a byte, and at most one has role
NOTICE and one role RENEWAL (R3). -/
abbrev WindowsLaidOut (s : State) : Prop :=
  ∀ w, ∀ e ∈ s.window w, WindowLaidOut e ∧ ∀ v, ∀ f ∈ s.window v, v ≠ w →
    (e.base + 2048 * e.count ≤ f.base ∨ f.base + 2048 * f.count ≤ e.base) ∧
      ¬(e.role = .notice ∧ f.role = .notice) ∧ ¬(e.role = .renewal ∧ f.role = .renewal)

end Sys2Proof.Machine
end

