-- ==== Sys2Proof/Certificates/Slice0/Obligations.lean ====
section
/-! DEFINITION. The statements about the BZ48, in the order of its chapters. -/

open Sys2Proof Sys2Proof.Machine

/-! ### The block and its queue -/

/-- A step takes the command at the front of the queue and runs it on the state
with the queue's rest; on an empty queue the block idles (the latter is the model's
choice, log 22). -/
def Obligations.StepRunsFrontCommand : Prop :=
  (∀ (c : Instr) (rest : List Instr) (s : State), s.pending = c :: rest →
    step s = exec c { s with pending := rest }) ∧
  ∀ s : State, s.pending = [] → step s = .next s

/-- A well-formed command always gives a next state and leaves the queue: no
command stops the block. (That one whose cause does not stand has no effect is the
model's choice, log 4.) -/
def Obligations.CommandsNeverStop : Prop :=
  ∀ (c : Instr) (s : State), c.wellFormed = true →
    ∃ t, exec c s = .next t ∧ t.pending = s.pending

/-! ### Invariants -/

/-- Every step keeps memory in its canonical form. -/
def Obligations.StepKeepsMemoryCanonical : Prop :=
  ∀ s t : State, MemoryCanonical s → step s = .next t → MemoryCanonical t

/-- Every step keeps ATTN asserted exactly when some record in the fault queue has
not been taken. -/
def Obligations.StepKeepsAttn : Prop :=
  ∀ s t : State, AttnFollows s → step s = .next t → AttnFollows t

/-- Every step keeps the null slot EMPTY with every field zero. -/
def Obligations.StepKeepsNullSlot : Prop :=
  ∀ s t : State, NullSlotBlank s → step s = .next t → NullSlotBlank t

/-- Every step keeps each context to at most one ACTIVE and one DRAINING slot. -/
def Obligations.StepKeepsOneOfEach : Prop :=
  ∀ s t : State, OneEach s → step s = .next t → OneEach t

/-- Every step keeps the fault queue, the tag job queue and the two streams within
their bounds; and every step keeps the window table laid out: each valid window has a
base that is a multiple of 2,048, 1 to 64 parcels with a record each, all below the
control window, and a direction its role allows, no two windows share a byte, and at
most one is NOTICE and one RENEWAL. -/
def Obligations.StepKeepsBounds : Prop :=
  (∀ s t : State, WithinBounds s → step s = .next t → WithinBounds t) ∧
  ∀ s t : State, WindowsLaidOut s → step s = .next t → WindowsLaidOut t

/-- A step hands on everything it has to hand on before it ends (log 16). -/
def Obligations.StepSettles : Prop :=
  ∀ s t : State, Settled s → step s = .next t → Settled t

/-- The seven invariants hold right after reset. -/
def Obligations.ResetMeetsInvariants : Prop :=
  MemoryCanonical State.reset ∧ AttnFollows State.reset ∧ NullSlotBlank State.reset ∧
    OneEach State.reset ∧ WithinBounds State.reset ∧ WindowsLaidOut State.reset ∧
    Settled State.reset

/-! ### Memory -/

/-- Whatever the command, memory changes only in bytes named by a write the arbiter
has granted: every other address reads as before. (That a granted write has its effect
at its completion is the model's choice, log 10; that POWER_ON keeps memory is the
model's choice, log 18, on which claims about the hardware should not rest.) -/
def Obligations.OnlyGrantedWritesReachMemory : Prop :=
  ∀ (c : Instr) (s t : State) (y : Nat), MemoryCanonical s → exec c s = .next t →
    (∀ f ∈ s.path.flight, ∀ bytes, f.access = .write bytes → Outside y f.address bytes.length) →
    t.mem.read y = s.mem.read y

/-- What the completion of a granted access leaves: a read changes nothing, and a
write without an error stores its enabled bytes and leaves every other byte. (That the
effect falls at the completion is the model's choice, log 10.) -/
def Obligations.CompletedAccessInMemory : Prop :=
  ∀ (s : State) (address : Nat) (bytes : List (Option Byte)) (n : Nat) (error : Bool),
    MemoryCanonical s → address + bytes.length ≤ 16777216 →
    s.complete address (.read n) error = s ∧
      WriteLands s.mem (s.complete address (.write bytes) error).mem address bytes error

/-! ### Resets, start-up and the test port -/

/-- The state right after reset holds what the chapters give for reset. (That the
start-up write of the result area already stands in the internal stream is the model's
choice, log 12; that the STARTED record has office mark NOT_REQUIRED and detail B 0 until
the fuse store read gives them is its reading, log 29.) -/
def Obligations.ResetValues : Prop :=
  let s := State.reset
  (∀ w, s.window w = none) ∧
    (∀ i, s.slot i = KeySlot.blank) ∧
    (∀ c, (s.context c).floor = 0 ∧ (s.context c).holdLine = true ∧
      (s.context c).settings =
        { drainPeriod := 3000, reserveParcels := 1024, reserveTicks := 360000, holdLow := 64,
          holdHigh := 256, linkSilence := 0, fallback := none }) ∧
    s.keys.grouping = .solo ∧
    s.tag = { queue := [], running := none, deferred := [], waitingSeal := none } ∧
    s.renewal = { storeId := 0, wrapKey := 0, provisioned := false, fuseReadDone := false,
                  importList := [], importing := none } ∧
    s.time.tick = 0 ∧
    s.time.heartbeat = { period := 0, mark := { value := none, latch := false }, silent := false } ∧
    (∀ c, s.link c = { period := 0, mark := { value := none, latch := false }, silent := false }) ∧
    s.fault.nextOrdinal = 2 ∧ s.fault.overflow = [] ∧ s.fault.lostSinceSummary = 0 ∧
    s.fault.lostTotal = 0 ∧
    (∀ x, s.counter x = { value := 0, firstReason := none, firstParcel := none, link := none }) ∧
    s.fault.postPending = true ∧ s.fault.postSound = true ∧ s.fault.postFence = true ∧
    s.fault.countersStale = true ∧ s.fault.attn = true ∧
    s.fault.queue =
      [{ ordinal := 1, tick := 0, age := 0, hostTaken := false, office := .notRequired,
         event := { kind := .started, context := none, window := none, parcel := none,
                    generation := none, detailA := 1, detailB := 0 } }] ∧
    s.composer = { phase := .idle, ring := 0, notice := none, gatherTime := 100,
                   gather := { value := none, latch := false },
                   retry := { value := none, latch := false }, published := 0 } ∧
    s.command.phase = .idle ∧ s.command.resultStatus = .none ∧ s.command.resultTicket = 0 ∧
    s.path.hold = true ∧ s.path.turn = .passing ∧ s.path.passing = [] ∧ s.path.flight = [] ∧
    s.requests = [{ purpose := .startUpResult, ignored := false, address := 0xFFF020,
                    access := .write (List.replicate 32 (some 0)), orderPoint := 0 }]

/-- A power-on reset, the release of the reset line and the reset a RESTART makes
give every block its reset values and start up; the three differ in the cause of
the STARTED record (POWER_ON 1, RESET_LINE 2, RESTART 3), in the upstream port,
which waits through the last two, and in the result area, which after a RESTART
takes its ticket with DONE. A restart waits until its pieces have drained. (The model's
choices: what a power-on keeps and drops, log 18, that it starts the part in every mode,
log 40, the values of the fields to which the spec gives none, log 33, and the start-up
write in the stream from the reset on, log 12. Its reading: the STARTED record's office
mark NOT_REQUIRED and detail B 0 until the fuse store read, log 29.) -/
def Obligations.ResetsGiveResetValues : Prop :=
  ∀ s : State,
    (exec .powerOn s = .next
      { State.reset with
        pending := s.pending, mem := s.mem, fuses := s.fuses, responses := s.responses,
        freeCount := s.freeCount }) ∧
    (s.mode = .resetLow → exec .resetLineReleased s = .next
      { State.reset with
        pending := s.pending, mem := s.mem, fuses := s.fuses, responses := s.responses,
        freeCount := s.freeCount,
        path := { State.reset.path with port := s.path.port },
        fault := { State.reset.fault with queue := [startedRecord .resetLine] } }) ∧
    (s.mode = .restarting → s.path.passing = [] → s.path.flight = [] →
      exec .restartReset s = .next
        { State.reset with
          pending := s.pending, mem := s.mem, fuses := s.fuses, responses := s.responses,
          freeCount := s.freeCount,
          path :=
            { State.reset.path with
              port := s.path.port,
              internal := [{ s.resultWrite s.command.restartTicket .done 0 with
                             purpose := .startUpResult, orderPoint := 0 }] },
          fault := { State.reset.fault with queue := [startedRecord .restart] },
          command :=
            { State.reset.command with
              resultTicket := s.command.restartTicket, resultStatus := .done,
              restartTicket := s.command.restartTicket } }) ∧
    (s.mode = .restarting → s.path.passing ≠ [] ∨ s.path.flight ≠ [] →
      exec .restartReset s = .next s) ∧
    (startedRecord .resetLine).event.detailA = 2 ∧ (startedRecord .restart).event.detailA = 3

/-- The reset line asserted, or boundary scan selected, while the part runs or
drains for a RESTART: taken requests are answered with an error and zeros, granted
writes still reach memory, everything not granted is discarded, and the lines are
driven asserted. A part held by boundary scan is held by the reset line once that
is asserted. (The model's choices: that a held part keeps the rest of its state, log 19;
that boundary scan changes nothing when RESET_L is low or when it is selected again,
log 24; that a missing end means no error, log 28.) -/
def Obligations.HeldPartDropsItsWork : Prop :=
  ∀ (s : State) (ends : List Bool) (held : PartMode) (c : Instr),
    (c = .resetLineAsserted ends ∧ held = .resetLow ∨
      c = .boundaryScanSelected ends ∧ held = .scanHeld) →
    let landed := s.path.flight.zipIdx.foldl
      (fun x f => x.complete f.1.address f.1.access (ends.getD f.2 false)) s
    (s.mode = .running ∨ s.mode = .restarting →
      ∃ t, exec c s = .next t ∧
        t = { s with
          mode := held, mem := landed.mem, freeCount := landed.freeCount,
          responses := s.responses ++ s.path.outstanding.map fun x =>
            { request := x.request, ok := false,
              data := if x.request.access.isWrite then []
                      else List.replicate x.request.access.count 0 },
          path := { s.path with
            outstanding := [], passing := [], internal := [], unissued := [], flight := [] } } ∧
        t.attnLine = true ∧ (∀ d, t.holdLine d = true) ∧
        (∀ f bytes, s.path.flight = [f] → f.access = .write bytes → MemoryCanonical s →
          f.address + bytes.length ≤ 16777216 →
          WriteLands s.mem t.mem f.address bytes (ends.headD false))) ∧
    (s.mode = .scanHeld → exec (.resetLineAsserted ends) s = .next { s with mode := .resetLow }) ∧
    (s.mode = .scanHeld → exec (.boundaryScanSelected ends) s = .next s) ∧
    (s.mode = .resetLow → exec c s = .next s)

/-- Programming sets fuse bits from zero to one unless the lock bit is set, and
changes nothing else: the renewal unit's copy stays. -/
def Obligations.FuseProgrammingSetsBits : Prop :=
  ∀ (s : State) (id : Word) (key : Key),
    (s.fuses.lock = false →
      exec (.fuseProgramming (.storeId id)) s =
        .next { s with fuses := { s.fuses with storeId := s.fuses.storeId ||| id } } ∧
      exec (.fuseProgramming (.wrapKey key)) s =
        .next { s with fuses := { s.fuses with wrapKey := s.fuses.wrapKey ||| key } } ∧
      exec (.fuseProgramming .lockBit) s =
        .next { s with fuses := { s.fuses with lock := true } }) ∧
    (s.fuses.lock = true → ∀ p, exec (.fuseProgramming p) s = .next s)

/-- The read of the root fuse store ends: the renewal unit holds the store id and
the wrap key and is provisioned when the id is not 0; the STARTED record takes its
detail B and office mark and its post write is issued. The start-up write of the
result area ends, with or without an error. The hold clears when both have ended, and a
request that waited alone on the port for that, in open memory or a plain read of the
control window, is taken at that moment. (That it is taken within the same step is the
model's choice, log 7, and so is that the fuse store read itself issues the post write,
log 32.) -/
def Obligations.StartUpEnds : Prop :=
  ∀ (s : State) (r : FaultRecord) (q : InternalRequest) (rest : List Flight) (error : Bool),
    Quiet s →
    let on : Bool := decide (s.fuses.storeId ≠ 0)
    let r' : FaultRecord :=
      { r with event := { r.event with detailB := if on then 1 else 0 },
               office := if on then .no else .notRequired }
    let read : State :=
      { s with
        renewal := { s.renewal with
          storeId := s.fuses.storeId.toNat, wrapKey := s.fuses.wrapKey, provisioned := on,
          fuseReadDone := true },
        fault := { s.fault with queue := [r'], posted := some r.ordinal, postPending := false },
        composer := { s.composer with gather := s.gatherBy [r'] },
        path := { s.path with hold := s.path.hold && !s.path.startUpResultDone } }
    let written : State :=
      { s.landed q rest error with
        path := { s.path with
          flight := rest, startUpResultDone := true,
          hold := s.path.hold && !s.renewal.fuseReadDone } }
    let posts : List InternalRequest :=
      [{ purpose := .post, ignored := false, address := 0xFFF060,
         access := wholeLine (recordImage r' r.event.detailA), orderPoint := s.path.nextSerial }]
    (s.renewal.fuseReadDone = false → s.fault.queue = [r] → r.event.kind = .started →
      r.hostTaken = false →
      (s.path.port = [] ∨ s.path.hold = true ∧ s.path.startUpResultDone = false →
        GoesTo s .rootFuseStoreRead read posts []) ∧
      (∀ x, Takeable read x → GoesTo s .rootFuseStoreRead (read.tookWaiting x) posts [])) ∧
    (Oldest s .startUpResult q rest →
      (s.path.port = [] → GoesTo s (.startUpResultWriteDone error) written [] []) ∧
      (∀ x, Takeable written x →
        GoesTo s (.startUpResultWriteDone error) (written.tookWaiting x) [] []))

/-! ### Upstream requests -/

/-- A request that is not refused whole gives 1 to 9 line pieces in ascending
address order: each lies in one 32-byte line, starts where the one before it ends,
and the pieces of a write carry its bytes in order. -/
def Obligations.RequestsAreCut : Prop :=
  ∀ r : Request, r.wellFormed = true → (Request.refusedWhole r) = none →
    1 ≤ (Request.pieceCount r) ∧ (Request.pieceCount r) ≤ 9 ∧ (Request.pieces r).length = (Request.pieceCount r) ∧
      (∀ k c, (Request.pieces r)[k]? = some c →
        1 ≤ c.access.count ∧ c.address % 32 + c.access.count ≤ 32 ∧
          c.access.isWrite = r.access.isWrite ∧
          c.address = (r.offset +
            (((Request.pieces r).take k).map fun d => d.access.count).sum) % 16777216) ∧
      ((Request.pieces r).map fun c => c.access.count).sum = r.access.count ∧
      (∀ bytes, r.access = .write bytes →
        ((Request.pieces r).map fun c => Access.bytes c.access).flatten = bytes)

/-- An offset of 0x200_0000 or above, or a request whose first and last bytes lie
in different 2,048-byte blocks, is refused whole: an error response with zeros,
no byte forwarded, and one refusal on the no-window counter for each line piece. (That
it needs no room in the passing stream is the model's reading, log 9; that a counter whose
event is lost has no first reason and no first parcel is its reading, log 21. A refusal
behind older unanswered requests is not this case.) -/
def Obligations.RequestsRefusedWhole : Prop :=
  ∀ (s : State) (r : Request) (reason : RefusalReason),
    Quiet s → s.path.hold = false → s.path.port = [] → s.path.outstanding = [] →
    r.wellFormed = true →
    (33554432 ≤ r.offset ∧ reason = .outOfRange ∨
      r.offset < 33554432 ∧ r.offset / 2048 ≠ (r.offset + r.access.count - 1) / 2048 ∧
        reason = .crossesBoundary) →
    ∃ t, exec (.upstreamRequest r) s = .next t ∧
      EndsRefused (s.answered r false (Request.zeros r)) t 8 (Request.pieceCount r) reason none

/-- A request waits on the upstream port, and changes nothing else, while the hold
is set or the part is not running, and, at the head of the port, while the passing
stream has no room for its pieces or, on its way to the control window, while
another control-window request is unanswered or the post fence is set. -/
def Obligations.RequestsWait : Prop :=
  ∀ (s : State) (r : Request), r.wellFormed = true →
    (s.path.hold = true ∨ s.mode ≠ .running ∨
      s.path.port = [] ∧ (Request.refusedWhole r) = none ∧ 32 < s.passingCount + (Request.pieceCount r) ∨
      s.path.port = [] ∧ (Request.isControl r) = true ∧
        (s.fault.postFence = true ∨ ∃ x ∈ s.path.outstanding, (Request.isControl x.request) = true)) →
    exec (.upstreamRequest r) s =
      .next { s with path := { s.path with port := s.path.port ++ [r] } }

/-- A request to open memory: its pieces are placed in the passing stream as they
came and it waits for them; one that enables no byte is answered at once. -/
def Obligations.OpenMemoryRequests : Prop :=
  ∀ (s : State) (r : Request), Quiet s → Ready s r → r.wellFormed = true →
    (Request.refusedWhole r) = none → (Request.isControl r) = false →
    (∀ w, ∀ e ∈ s.window w,
      r.offset % 16777216 + r.access.count ≤ e.base ∨
        e.base + 2048 * e.count ≤ r.offset % 16777216) →
    ((∀ c ∈ (Request.pieces r), Access.allClear c.access = false) →
      ∃ t, exec (.upstreamRequest r) s = .next t ∧
        EndsAs (s.waitsFor r (s.asPieces (Request.pieces r)) ((Request.pieces r).map fun _ => .waiting)) t [] []) ∧
    (Access.allClear r.access = true → s.path.outstanding = [] →
      ∃ t, exec (.upstreamRequest r) s = .next t ∧ EndsAs (s.answered r true []) t [] [])

/-- The outcome of every window piece, row by row of the table of R23: the alias
and the direction, then the role, the line and the access. -/
def Obligations.AccessOutcomes : Prop :=
  ∀ (role : Role) (st : ParcelState) (release marker head : Bool),
    -- plain alias, outbound window
    decideAccess .plain .outbound .data false true st release marker =
      (if st = .free then .opens else if st = .filling then .enciphered
       else .refused .parcelBusy) ∧
    decideAccess .plain .outbound .notice false true st release marker = .refused .noticeArea ∧
    decideAccess .plain .outbound role false false st release marker =
      (if st = .free then .refused .notOpen else .deciphered) ∧
    decideAccess .plain .outbound role true true st release marker =
      (if st = .sealed ∧ release = true then .releases else .refused .headLine) ∧
    decideAccess .plain .outbound role true false st release marker = .passes ∧
    -- raw alias, outbound window
    decideAccess .raw .outbound role head false st release marker = .passes ∧
    decideAccess .raw .outbound role false true st release marker = .refused .outboundRaw ∧
    decideAccess .raw .outbound role true true st release marker =
      (if st = .sealed then (if release then .releases else .refused .headLine)
       else .refused .outboundRaw) ∧
    -- plain alias, inbound window
    decideAccess .plain .inbound .data false false st release marker =
      (if st = .admitted then .deciphered else .refused .notAdmitted) ∧
    decideAccess .plain .inbound .renewal false false st release marker =
      .refused .renewalArea ∧
    decideAccess .plain .inbound role true false st release marker = .passes ∧
    decideAccess .plain .inbound role false true st release marker = .refused .inboundPlain ∧
    decideAccess .plain .inbound .data true true st release marker =
      (if st = .admitted ∨ st = .rejected then
        (if release then .releases else .refused .headLine)
       else .refused .inboundPlain) ∧
    decideAccess .plain .inbound .renewal true true st release marker =
      (if st = .rejected then (if release then .releases else .refused .headLine)
       else if st = .admitted then
        (if release then .refused .parcelBusy else .refused .headLine)
       else .refused .inboundPlain) ∧
    -- raw alias, inbound window
    decideAccess .raw .inbound role head false st release marker = .passes ∧
    decideAccess .raw .inbound role false true st release marker =
      (if st = .free ∨ st = .arriving then .arrives else .refused .parcelBusy) ∧
    decideAccess .raw .inbound .data true true st release marker =
      (if st = .free ∨ st = .arriving then (if marker then .marks else .arrives)
       else if st = .admitted ∨ st = .rejected then
        (if release then .releases else .refused .headLine)
       else .refused .parcelBusy) ∧
    decideAccess .raw .inbound .renewal true true st release marker =
      (if st = .free ∨ st = .arriving then (if marker then .marks else .arrives)
       else if st = .rejected then (if release then .releases else .refused .headLine)
       else .refused .parcelBusy)

/-- A window piece with a byte to move is carried out as decided: placed as it
came, placed with each enabled byte XORed with its keystream byte, placed as a
read whose bytes will be deciphered, or refused; and the parcel changes state. A
request of one such piece that can be taken now completes so: it waits for its piece,
which passes, is enciphered or deciphered, releases the parcel, or makes it ARRIVING.
(Requests of one piece that open a parcel, mark one complete or are refused have statements
of their own.) A request of any number of pieces in one parcel takes each piece in
ascending address order, on the state the one before it left; it waits for those that are
placed, or for the older requests, and is answered at once when none is; the reports of
all its pieces are handed on in order, after the last of them (the model's choice, log 16). -/
def Obligations.WindowPieces : Prop :=
  (∀ (s : State) (r : Request) (side : Alias) (w : WindowIndex) (p : Nat),
    Quiet s → Ready s r → WindowsLaidOut s → r.wellFormed = true →
    Request.refusedWhole r = none → (Request.isControl r) = false →
    aliasOf r.offset = some side → s.locate (r.offset % 16777216) = some (w, p) →
    let taken := s.tookEach side w p (Request.pieces r)
    let b := taken.1
    let parts := taken.2
    parts.length = Request.pieceCount r ∧
    (parts.all Part.done = false ∨ s.path.outstanding ≠ [] →
      ∃ t, exec (.upstreamRequest r) s = .next t ∧
        HandsOn { b with path := { b.path with
          outstanding := s.path.outstanding ++ [{ request := r, parts := parts }] } } t) ∧
    (parts.all Part.done = true → s.path.outstanding = [] →
      ∃ t, exec (.upstreamRequest r) s = .next t ∧
        HandsOn (b.answered r (parts.all Part.ok)
          (if r.access.isWrite then [] else (parts.map Part.data).flatten)) t)) ∧
  ∀ (s : State) (side : Alias) (w : WindowIndex) (e : Window) (p : Nat) (q : ParcelRecord)
    (c : Cut) (outcome : Decision), Access.allClear c.access = false →
    let start := (c.address - e.base) % 2048 % 32
    let line := (c.address - e.base) % 2048 / 32
    let ks := fun (x : State) => x.parcelKeystream w p line start c.access.count
    let placed := fun (x : State) (access : Access) (stream : List Byte) =>
      { x with path := { x.path with
          nextSerial := x.path.nextSerial + 1,
          passing := x.path.passing ++
            [{ serial := x.path.nextSerial, address := c.address, access := access,
               keystream := stream }] } }
    let enciphered := fun (x : State) =>
      placed x (match c.access with
        | .read n => .read n
        | .write bytes => .write (applyKeystreamEnabled bytes (ks x))) []
    let plain := placed s c.access []
    decideAccess side e.direction e.role (decide (line = 0)) c.access.isWrite q.state
      (isReleaseWrite start (Access.bytes c.access))
      (isMarkerWrite start (Access.bytes c.access)) = outcome →
    (s.takeWindowPiece side w e p q c =
      match outcome with
      | .refused reason =>
        (s.reportRefusal (windowCounter w) reason (some p), .notServed c.access.count)
      | .passes => (plain, .waiting)
      | .opens =>
        (match s.openParcel w p e.context .controller with
         | none => (s.reportRefusal (windowCounter w) .noKey (some p), .notServed c.access.count)
         | some t => (enciphered t, .waiting))
      | .enciphered => (enciphered s, .waiting)
      | .deciphered => (placed s c.access (ks s), .waiting)
      | .releases => (plain.freeParcel w p, .waiting)
      | .arrives => (plain.updateParcel w p fun x => { x with state := .arriving }, .waiting)
      | .marks =>
        ((plain.updateParcel w p fun x => { x with state := .checking }).offerCheck w p, .waiting)) ∧
    ∀ r : Request, Quiet s → Ready s r → OnePiece s r side w e p q →
      c = { address := r.offset % 16777216, access := r.access } →
      let goes := fun (b : State) (access : Access) (stream : List Byte) =>
        GoesTo s (.upstreamRequest r)
          (b.waitsFor r [{ serial := s.path.nextSerial, address := c.address, access := access,
                           keystream := stream }] [.waiting]) [] []
      (outcome = .passes → goes s c.access []) ∧
      (outcome = .enciphered → ∀ bytes, c.access = .write bytes →
        goes s (.write (applyKeystreamEnabled bytes (ks s))) []) ∧
      (outcome = .deciphered → goes s c.access (ks s)) ∧
      (outcome = .releases → goes (s.withoutParcel w p q) c.access []) ∧
      (outcome = .arrives → goes (s.withParcel w p { q with state := .arriving }) c.access [])

/-- A refused piece: an error response with zeros, nothing forwarded, one refusal
on the counter of the window the piece lies in, and neither the parcel nor the key
table changes. A piece that would open its parcel is refused with NO_KEY when the
window's context has no usable ACTIVE generation. (That a counter whose event is lost has
no first reason and no first parcel is the model's reading, log 21. A refusal behind older
unanswered requests and one among other pieces are in WindowPieces.) -/
def Obligations.RefusedPieces : Prop :=
  ∀ (s : State) (r : Request) (side : Alias) (w : WindowIndex) (e : Window) (p : Nat)
    (q : ParcelRecord) (reason : RefusalReason),
    Quiet s → Ready s r → s.path.outstanding = [] → OnePiece s r side w e p q →
    (let offset := (r.offset % 16777216 - e.base) % 2048
     let outcome := decideAccess side e.direction e.role (decide (offset / 32 = 0))
       r.access.isWrite q.state (isReleaseWrite (offset % 32) (Access.bytes r.access))
       (isMarkerWrite (offset % 32) (Access.bytes r.access))
     outcome = .refused reason ∨
       outcome = .opens ∧ s.usableSlot e.context = none ∧ reason = .noKey) →
    ∃ t, exec (.upstreamRequest r) s = .next t ∧
      EndsRefused (s.answered r false (Request.zeros r)) t (windowCounter w) 1 reason (some p)

/-- A plain write to a payload line of a FREE parcel of an OUTBOUND DATA window, whose
base is a multiple of 2,048, opens the parcel under the usable ACTIVE generation i of
the window's context: the record takes the slot and its next sequence, the slot's
sequence, usage and references go up, the piece is placed enciphered under them, and
renewal due and the hold line are evaluated. The open that exhausts the generation
raises BUDGET_EXHAUSTED once; the generation then stays ACTIVE when nothing is staged,
and else the context changes over to its staged head. -/
def Obligations.OpeningWrite : Prop :=
  ∀ (s : State) (r : Request) (bytes : List (Option Byte)) (w : WindowIndex) (e : Window)
    (p : Nat) (q : ParcelRecord) (i : SlotId) (o : State) (events : List FaultEvent),
    Quiet s → Ready s r → OnePiece s r .plain w e p q → r.access = .write bytes →
    Access.allClear r.access = false → e.base % 2048 = 0 → e.direction = .outbound →
    e.role = .data → q.state = .free → 32 ≤ (r.offset % 16777216 - e.base) % 2048 →
    Opens s w p e.context i .controller o events →
    let k := s.slot i
    let line := (r.offset % 16777216 - e.base) % 2048 / 32
    let stream := keystream k.trafficKey k.context.val 1 k.generation k.nextSequence line
      (r.offset % 32) bytes.length
    GoesTo s (.upstreamRequest r)
      (o.waitsFor r
        [{ serial := s.path.nextSerial, address := r.offset % 16777216,
           access := .write (applyKeystreamEnabled bytes stream), keystream := [] }]
        [.waiting]) [] events

/-- A marker write to an inbound parcel that is FREE or ARRIVING is forwarded whole
and the parcel becomes CHECKING: its job starts at once when the engine is free,
waits in the queue when a job runs, and goes to the deferred list when the queue is
full. The job's order point follows the marker write. -/
def Obligations.MarkerWrite : Prop :=
  ∀ (s : State) (r : Request) (bytes : List (Option Byte)) (w : WindowIndex) (e : Window)
    (p : Nat) (q : ParcelRecord),
    Quiet s → Ready s r → OnePiece s r .raw w e p q → r.access = .write bytes →
    e.direction = .inbound → (q.state = .free ∨ q.state = .arriving) →
    (r.offset % 16777216 - e.base) % 2048 / 32 = 0 →
    isMarkerWrite ((r.offset % 16777216 - e.base) % 2048 % 32) bytes = true →
    let kind : JobKind := if e.role = .renewal then .checkRenewal else .check
    let job : Job := { window := w, parcel := p, kind := kind,
                       orderPoint := s.path.nextSerial + 1 }
    let placed := fun (x : State) => x.waitsFor r (s.asPieces (Request.pieces r)) [.waiting]
    let parcel := fun (mark : Bool) => s.updateParcel w p fun x =>
      { x with state := .checking, deferred := mark || x.deferred }
    (s.tag = { queue := [], running := none, deferred := [], waitingSeal := none } →
      ∃ t, exec (.upstreamRequest r) s = .next t ∧
        EndsAs
          (placed { parcel false with
            tag := { s.tag with
              running := some { job := job, head := none, payload := [], linesLeft := 0 } } }) t
          [{ purpose := if e.role = .renewal then .renewalHead else .checkHead, ignored := false,
             address := e.base + 2048 * p, access := .read 32,
             orderPoint := s.path.nextSerial + 1 }] []) ∧
    (s.tag.running ≠ none → s.tag.queue.length < 16 → s.tag.deferred = [] →
      s.tag.waitingSeal = none →
      ∃ t, exec (.upstreamRequest r) s = .next t ∧
        EndsAs (placed { parcel false with tag := { s.tag with queue := s.tag.queue ++ [job] } })
          t [] []) ∧
    (s.tag.queue.length = 16 →
      ∃ t, exec (.upstreamRequest r) s = .next t ∧
        EndsAs (placed { parcel true with
          tag := { s.tag with deferred := s.tag.deferred ++ [(w, p)] } }) t [] [])

/-! ### The control window -/

/-- A plain write piece of the control window is decided by the bytes it enables:
READ_ONLY_AREA for any in the result, post, counters or snapshot area, then
COMMAND_BUSY for any in the command area while a command is in progress, and
otherwise it is accepted and forwarded; an accepted piece is a heartbeat when it
enables a byte of the heartbeat word, and takes a command when it enables all four
bytes of the command word. A raw piece is refused with CONTROL_RAW on the no-window
counter, and does nothing else; a plain read piece is placed as it came, in every phase. -/
def Obligations.ControlPieceDecisions : Prop :=
  (∀ (s : State) (c : Cut) (n : Nat),
    s.takeControlPiece .raw c = (s.reportRefusal 8 .controlRaw none, .notServed c.access.count) ∧
    (c.access = .read n → s.takeControlPiece .plain c =
      ({ s with path := { s.path with
          nextSerial := s.path.nextSerial + 1,
          passing := s.path.passing ++
            [{ serial := s.path.nextSerial, address := c.address, access := .read n,
               keystream := [] }] } }, .waiting))) ∧
  ∀ (s : State) (offset : Nat) (bytes : List (Option Byte)),
    controlPieceWellFormed offset bytes = true → s.mode = .running →
    let c : Cut := { address := 16773120 + offset, access := .write bytes }
    let enabled := fun n => offset ≤ n ∧ ∃ v, bytes[n - offset]? = some (some v)
    let owned := ∃ n, enabled n ∧
      ((0x20 ≤ n ∧ n < 0x40) ∨ (0x60 ≤ n ∧ n < 0x80) ∨ (0x80 ≤ n ∧ n < 0xA0) ∨ 0x100 ≤ n)
    let busy := (∃ n, enabled n ∧ n < 0x20) ∧ s.command.phase ≠ .idle
    let beats := ∃ n, enabled n ∧ 0x40 ≤ n ∧ n < 0x44
    let forwarded := (s.place c.address c.access []).1
    (owned → s.takeControlPiece .plain c =
      (s.reportRefusal 8 .readOnlyArea none, .notServed bytes.length)) ∧
    (¬owned → busy → s.takeControlPiece .plain c =
      (s.reportRefusal 8 .commandBusy none, .notServed bytes.length)) ∧
    (¬owned → ¬busy →
      (s.takeControlPiece .plain c).2 =
        (if bytes.all Option.isNone then .served [] else .waiting) ∧
      (∀ a b d f : Byte, offset = 0 →
        bytes.take 4 = [some a, some b, some d, some f] → ¬beats →
        (s.takeControlPiece .plain c).1 =
          forwarded.takeCommand a.toNat (b.toNat + 256 * d.toNat + 65536 * f.toNat)) ∧
      ((¬∃ a b d f : Byte, offset = 0 ∧ bytes.take 4 = [some a, some b, some d, some f]) →
        (beats → (s.takeControlPiece .plain c).1 = forwarded.takeHeartbeat) ∧
        (¬beats → (s.takeControlPiece .plain c).1 = forwarded)))

/-- A plain write request of one control-window piece. Accepted, with no byte of
the heartbeat word and not the whole command word, it is placed in the passing
stream; with a byte of the heartbeat word it is placed and then acts as HEARTBEAT does;
with the whole command word, in IDLE, it is placed and then acts as COMMAND_TAKEN does
for the code and ticket written; with a byte of a part-owned area it is refused with an
error response. A request through the raw alias, of any number of pieces, is refused with
CONTROL_RAW, each piece on the no-window counter, and returns zeros; a plain read is placed
piece by piece, in every phase of the command unit. (That the command and the heartbeat act
within the step is the model's choice, log 6; that a counter whose event is lost has no
first reason is its reading, log 21.) -/
def Obligations.ControlWindowWrites : Prop :=
  (∀ (s : State) (r : Request), Quiet s → Ready s r → r.wellFormed = true →
    (Request.isControl r) = true →
    (16777216 ≤ r.offset → s.path.outstanding = [] →
      ∃ t, exec (.upstreamRequest r) s = .next t ∧
        EndsRefused (s.answered r false (Request.zeros r)) t 8 (Request.pieceCount r)
          .controlRaw none) ∧
    (r.offset < 16777216 → r.access.isWrite = false →
      GoesTo s (.upstreamRequest r)
        (s.waitsFor r (s.asPieces (Request.pieces r))
          ((Request.pieces r).map fun _ => .waiting)) [] [])) ∧
  ∀ (s : State) (offset : Nat) (bytes : List (Option Byte)),
    controlPieceWellFormed offset bytes = true →
    let r : Request := { offset := 16773120 + offset, access := .write bytes }
    let placed := s.waitsFor r (s.asPieces (Request.pieces r)) [.waiting]
    Quiet s → Ready s r →
    ((∀ k, (∃ v, bytes[k]? = some (some v)) →
        (offset + k < 0x20 ∧ s.command.phase = .idle) ∨
          (0x44 ≤ offset + k ∧ offset + k < 0x60) ∨
          (0xA0 ≤ offset + k ∧ offset + k < 0x100)) →
      commandWordOf offset bytes = none → (∃ v, some v ∈ bytes) →
      ∃ t, exec (.controlWindowWrite offset bytes) s = .next t ∧ EndsAs placed t [] []) ∧
    ((∃ k v, bytes[k]? = some (some v) ∧ 0x40 ≤ offset + k ∧ offset + k < 0x44) →
      exec (.controlWindowWrite offset bytes) s = exec .heartbeat placed) ∧
    (∀ code a b d : Byte, offset = 0 →
      bytes.take 4 = [some code, some a, some b, some d] → s.command.phase = .idle →
      exec (.controlWindowWrite offset bytes) s = exec (.commandTaken code (d ++ b ++ a)) placed) ∧
    (s.path.outstanding = [] →
      (∃ k v, bytes[k]? = some (some v) ∧
        ((0x20 ≤ offset + k ∧ offset + k < 0x40) ∨
          (0x60 ≤ offset + k ∧ offset + k < 0xA0) ∨ 0x100 ≤ offset + k)) →
      ∃ t, exec (.controlWindowWrite offset bytes) s = .next t ∧
        EndsRefused (s.answered r false []) t 8 1 .readOnlyArea none)

/-! ### The two streams -/

/-- The oldest passing piece completes: memory has its effect and its end is noted;
when it is the last of the oldest request, the response is returned, and a receipt
is reported as its data is returned. A request that waited alone on the port for the room
or for that response, in open memory or a plain read of the control window, is taken at
that moment (within the same step: the model's choice, log 7). A part that drains for a
RESTART returns the responses too, but reports no receipt and takes no request. (Several
responses returned in one step are not this case.) -/
def Obligations.PassingPieceCompletes : Prop :=
  ∀ (s : State) (p : Piece) (rest : List Flight) (x : Taken) (xs : List Taken)
    (ended more : List Part) (error : Bool),
    Settled s → s.path.flight = .passing p :: rest →
    s.path.outstanding = x :: xs → x.parts = ended ++ .waiting :: more →
    ended.all Part.done = true →
    (∀ y ∈ xs.head?, y.parts.all Part.done = false) →
    let part : Part :=
      if error then .notServed p.access.count
      else .served (applyKeystream (s.returned p.address p.access) p.keystream)
    let x' : Taken := { x with parts := ended ++ part :: more }
    let b := ({ s with path := { s.path with flight := rest } }).complete p.address p.access error
    let waits : State := { b with path := { s.path with flight := rest, outstanding := x' :: xs } }
    let answeredNow : State :=
      { b with responses := s.responses ++ [x'.response],
               path := { s.path with flight := rest, outstanding := xs } }
    (s.mode = .running →
      (more.all Part.done = false →
        (s.path.port = [] → GoesTo s (.passingPieceDone error) waits [] []) ∧
        (∀ r, Takeable waits r →
          GoesTo s (.passingPieceDone error) (waits.tookWaiting r) [] [])) ∧
      (more.all Part.done = true → x'.isReceipt = false →
        (s.path.port = [] → GoesTo s (.passingPieceDone error) answeredNow [] []) ∧
        (∀ r, Takeable answeredNow r →
          GoesTo s (.passingPieceDone error) (answeredNow.tookWaiting r) [] [])) ∧
      (more.all Part.done = true → x'.isReceipt = true →
        (s.path.port = [] → GoesTo s (.passingPieceDone error) answeredNow.takeReceipt [] []) ∧
        (∀ r, Takeable answeredNow.takeReceipt r →
          GoesTo s (.passingPieceDone error) (answeredNow.takeReceipt.tookWaiting r) [] []))) ∧
    (s.mode = .restarting →
      (more.all Part.done = false → exec (.passingPieceDone error) s = .next waits) ∧
      (more.all Part.done = true → exec (.passingPieceDone error) s = .next answeredNow))

/-- The arbiter grants the port to the only head that waits, or, when both wait, to
the one whose turn it is; the turn passes to the other after each grant; a head
that is a read waits while a write piece placed before its order point is not
complete; after a reset the turn belongs to the passing stream. -/
def Obligations.ArbiterGrants : Prop :=
  State.reset.path.turn = .passing ∧
  ∀ s : State, s.mode = .running ∨ s.mode = .restarting →
    let before := fun (r : InternalRequest) =>
      (∃ p ∈ s.path.passing, p.access.isWrite = true ∧ p.serial < r.orderPoint) ∨
        ∃ p, .passing p ∈ s.path.flight ∧ p.access.isWrite = true ∧ p.serial < r.orderPoint
    let waits := ∃ r rest, s.path.internal = r :: rest ∧ (r.access.isWrite = true ∨ ¬before r)
    (∀ p rest, s.path.passing = p :: rest → (¬waits ∨ s.path.turn = .passing) →
      exec .downstreamGrant s = .next { s with path := { s.path with
        passing := rest, flight := s.path.flight ++ [.passing p], turn := .internal } }) ∧
    (∀ r rest, s.path.internal = r :: rest → waits →
      (s.path.passing = [] ∨ s.path.turn = .internal) →
      exec .downstreamGrant s = .next { s with path := { s.path with
        internal := rest, flight := s.path.flight ++ [.internal r], turn := .passing } })

/-! ### The fault unit -/

/-- A fault event becomes a record at the tail of a queue with room, with its
fields as they stand at that event, and ATTN is asserted; a full queue loses it:
its kind joins the overflow set once and both lost counts go up, stopping at their
bound, and nothing else changes; a lost REFUSED_ACCESS event also returns its
refusal counter to 0, with no link. (That its first reason and first parcel become absent
is the model's reading, log 21.) -/
def Obligations.EventsBecomeRecords : Prop :=
  ∀ (s : State) (e : FaultEvent) (x : Fin 9) (reason : RefusalReason) (parcel : Option Nat),
    (s.fault.queue.length < 8 →
      let t := s.takeEvent e
      t.fault.queue = s.fault.queue ++
        [{ ordinal := s.fault.nextOrdinal, event := e, tick := s.time.tick, age := 0,
           hostTaken := false,
           office := if s.noticeWindow.isSome then .no else .notRequired }] ∧
      t.fault.nextOrdinal =
        (if 4294967295 ≤ s.fault.nextOrdinal then 1 else s.fault.nextOrdinal + 1) ∧
      t.fault.attn = true ∧ t.transit.examine = true ∧
      t.fault.overflow = s.fault.overflow ∧ t.fault.lostTotal = s.fault.lostTotal ∧
      t.fault.postPending =
        (s.fault.postPending || s.fault.posted.isNone || !s.fault.postSound) ∧
      t.fault.postFence = (s.fault.postFence || s.fault.posted.isNone || !s.fault.postSound) ∧
      t.composer.gather =
        (if s.recordsAtNo = [] ∧ s.noticeWindow.isSome = true then
          { value := some (ahead s.time.tick s.composer.gatherTime),
            latch := decide (s.composer.gatherTime = 0) }
         else if s.recordsAtNo = [] then { value := none, latch := false }
         else s.composer.gather)) ∧
    (8 ≤ s.fault.queue.length →
      s.takeEvent e = { s with fault := { s.fault with
        overflow := if e.kind ∈ s.fault.overflow then s.fault.overflow
                    else s.fault.overflow ++ [e.kind],
        lostSinceSummary := min 4294967295 (s.fault.lostSinceSummary + 1),
        lostTotal := min 4294967295 (s.fault.lostTotal + 1),
        countersStale := true, countersWanted := true } }) ∧
    (8 ≤ s.fault.queue.length → (s.counter x).value = 0 →
      s.takeRefusal x reason parcel =
        State.takeEvent
          { s with fault := { s.fault with
              counters := s.fault.counters.set x
                { value := 0, firstReason := none, firstParcel := none, link := none } } }
          (s.refusedAccessEvent x reason parcel) ∧
      (s.refusedAccessEvent x reason parcel).kind = .refusedAccess)

/-- A receipt, row by row of R137's table: on a pending posting nothing changes; an
unsound post is written again; a soundly posted record becomes TAKEN, ATTN follows,
and a posting starts; the record leaves when its office mark is YES or
NOT_REQUIRED, its refusal counter returns to 0 and, when kinds were lost, a SUMMARY
takes its place; with nothing posted nothing else changes. (That a pending posting
comes first is the model's reading, log 13; that the counter loses its first reason and
first parcel is its reading, log 21.) -/
def Obligations.ReceiptTakesRecord : Prop :=
  ∀ (s : State) (before after : List FaultRecord) (r : FaultRecord), Quiet s →
    let counters :=
      match s.linkedCounter r.ordinal with
      | none => s.fault.counters
      | some x => s.fault.counters.set x
          { value := 0, firstReason := none, firstParcel := none, link := none }
    (s.fault.postPending = true → ∃ t, exec .receipt s = .next t ∧ EndsAs s t [] []) ∧
    (s.fault.postPending = false → s.fault.postSound = false →
      ∃ t, exec .receipt s = .next t ∧
        EndsAs { s with fault := { s.fault with postFence := true, postPending := true } } t [] []) ∧
    (s.fault.postPending = false → s.fault.postSound = true → s.fault.posted = none →
      ∃ t, exec .receipt s = .next t ∧ EndsAs s t [] []) ∧
    (s.fault.postPending = false → s.fault.postSound = true →
      s.fault.posted = some r.ordinal → s.fault.queue = before ++ r :: after →
      (∀ x ∈ before ++ after, x.ordinal ≠ r.ordinal ∧ x.leaves = false) →
      (r.office = .no ∨ r.office = .inFlight →
        ∃ t, exec .receipt s = .next t ∧
          EndsAs
            { s with fault := { s.fault with
              queue := before ++ { r with hostTaken := true } :: after,
              attn := (before ++ after).any fun x => !x.hostTaken,
              postFence := true, postPending := true } } t [] []) ∧
      (r.office = .yes ∨ r.office = .notRequired → s.fault.overflow = [] →
        ∃ t, exec .receipt s = .next t ∧
          EndsAs
            { s with fault := { s.fault with
              queue := before ++ after,
              attn := (before ++ after).any fun x => !x.hostTaken,
              counters := counters, postFence := true, postPending := true } } t [] []) ∧
      (r.office = .yes ∨ r.office = .notRequired → s.fault.overflow ≠ [] →
        ∃ t, exec .receipt s = .next t ∧
          EndsAs
            { s with
              fault := { s.fault with
                queue := before ++ after ++
                  [{ ordinal := s.fault.nextOrdinal, tick := s.time.tick, age := 0,
                     hostTaken := false,
                     office := if s.noticeWindow.isSome then .no else .notRequired,
                     event := { kind := .summary, context := none, window := none, parcel := none,
                                generation := none, detailA := s.fault.lostSinceSummary,
                                detailB := overflowWord s.fault.overflow } }],
                nextOrdinal :=
                  if 4294967295 ≤ s.fault.nextOrdinal then 1 else s.fault.nextOrdinal + 1,
                overflow := [], lostSinceSummary := 0, attn := true, counters := counters,
                postFence := true, postPending := true },
              composer := { s.composer with
                gather :=
                  if (before ++ after).any fun x => decide (x.office = .no) then s.composer.gather
                  else if s.noticeWindow.isSome = true then
                    { value := some (ahead s.time.tick s.composer.gatherTime),
                      latch := decide (s.composer.gatherTime = 0) }
                  else { value := none, latch := false } } } t [] []))

/-- The pending post write is issued once no control-window request is unanswered:
the posted record while it stands not taken, else the waiting record of the highest
severity and among those the oldest, becomes posted and its image is written; with
none waiting nothing is posted and the image is empty. -/
def Obligations.PostIsIssued : Prop :=
  ∀ (s : State) (before after : List FaultRecord) (r : FaultRecord),
    Quiet s → s.fault.postPending = true → s.renewal.fuseReadDone = true →
    (∀ x ∈ s.path.outstanding, (Request.isControl x.request) = false) → s.internalCount < 16 →
    let writes := fun (b : State) (image : List Byte) =>
      ∃ t, exec .postWriteIssue s = .next t ∧
        EndsAs b t
          [{ purpose := .post, ignored := false, address := 0xFFF060, access := wholeLine image,
             orderPoint := s.path.nextSerial }] []
    let posts := fun (r : FaultRecord) (detailA : Nat) =>
      writes { s with fault := { s.fault with posted := some r.ordinal, postPending := false } }
        (recordImage r detailA)
    (s.fault.queue = before ++ r :: after → r.hostTaken = false →
      (s.fault.posted = some r.ordinal ∧ (∀ x ∈ before, x.ordinal ≠ r.ordinal) ∨
        (∀ x ∈ s.fault.queue, x.hostTaken = false → s.fault.posted ≠ some x.ordinal) ∧
          (∀ x ∈ before, x.hostTaken = false →
            x.event.kind.severity < r.event.kind.severity) ∧
          (∀ x ∈ after, x.hostTaken = false →
            x.event.kind.severity ≤ r.event.kind.severity)) →
      (s.linkedCounter r.ordinal = none → posts r r.event.detailA) ∧
      (∀ x, s.linkedCounter r.ordinal = some x → r.event.kind = .refusedAccess →
        posts r (s.counter x).value)) ∧
    ((∀ x ∈ s.fault.queue, x.hostTaken = true) →
      writes { s with fault := { s.fault with posted := none, postPending := false } }
        (List.replicate 32 0))

/-- A post write completes: the post is sound exactly when it ended without error,
the fence clears unless another posting is pending (the model's choice, log 14), and
its first clearing after start-up issues the first counters write, with the values as
they stand (held back until then by the mark of log 30). A control-window request that
waited alone on the port for the fence is taken at that moment (within the same step: the
model's choice, log 7). -/
def Obligations.PostWriteCompletes : Prop :=
  ∀ (s : State) (r : InternalRequest) (rest : List Flight) (error : Bool),
    Quiet s → Oldest s .post r rest →
    (∀ q ∈ s.requests, q.purpose ≠ .post) →
    (∀ f ∈ rest, ∀ q, f = .internal q → q.purpose ≠ .post) →
    let written : State :=
      { s.landed r rest error with fault := { s.fault with
          postSound := !error, postFence := s.fault.postPending,
          countersArmed := s.fault.countersArmed || !s.fault.postPending } }
    (s.path.port = [] →
      ∃ t, exec (.postWriteDone error) s = .next t ∧ EndsAs written t [] [] ∧
        (s.fault.postPending = false → s.fault.countersArmed = false →
          s.fault.countersWriting = false → s.path.unissued = [] → s.internalCount ≤ 16 →
          WritesCounters s s t)) ∧
    (∀ x, Takeable written x → GoesTo s (.postWriteDone error) (written.tookWaiting x) [] [])

/-- A counters write completes. After an error the image is left stale with no
write issued. Without one a stale image is written again at once, with the values
as they stand; a current one is not. Nothing else changes. An event that changes a value
of the image (a refused piece, the event of the heartbeat mark lost to a full queue, a
receipt, a published notice) issues the write with the values as they stand after it when
none is outstanding and the internal stream has room; while one is outstanding it leaves
the image stale. So a request refused whole issues the write at its first piece, and its
later pieces leave the image stale. (That a receipt, whose records may change several
values, is one event is read from the rules: DEDUCED, log 35.) -/
def Obligations.CountersWriteCompletes : Prop :=
  (∀ s : State, Quiet s → s.fault.countersArmed = true → s.path.unissued = [] →
    s.internalCount < 16 →
    (∀ (r : Request) (reason : RefusalReason), s.path.hold = false → s.path.port = [] →
      s.path.outstanding = [] → r.wellFormed = true → Request.refusedWhole r = some reason →
      ∃ t, exec (.upstreamRequest r) s = .next t ∧
        ((∀ k, k ≤ Request.pieceCount r →
            ((s.answered r false (Request.zeros r)).afterRefusals 8 reason none
              k).noticeCalled = false) →
          (s.fault.countersWriting = false →
            t.requests = s.requests ++
                [(s.takeRefusal 8 reason none).countersWrite s.path.nextSerial] ∧
              t.fault.countersWriting = true ∧
              (t.fault.countersStale = true ↔ 2 ≤ Request.pieceCount r) ∧
              (t.fault.countersWanted = true ↔ 2 ≤ Request.pieceCount r)) ∧
          (s.fault.countersWriting = true →
            t.requests = s.requests ∧ t.fault.countersStale = true))) ∧
    (let u := s.takeReceipt
     u.fault.countersWanted = true → u.noticeCalled = false →
      ∃ t, exec .receipt s = .next t ∧
        (s.fault.countersWriting = false → WritesCounters s u t) ∧
        (s.fault.countersWriting = true → t.requests = s.requests ∧ t.fault = u.fault)) ∧
    (∀ v : Tick, s.time.heartbeat.mark = { value := some v, latch := false } →
      reached s.time.tick v = true → 8 ≤ s.fault.queue.length →
      ∃ t, exec .heartbeatMarkReached s = .next t ∧
        (s.fault.countersWriting = false → WritesCounters s t t) ∧
        (s.fault.countersWriting = true →
          t.requests = s.requests ∧ t.fault.countersStale = true)) ∧
    (∀ (r : InternalRequest) (rest : List Flight) (run : Running) (e : Window)
      (q : ParcelRecord) (n : Notice),
      Oldest s .headWrite r rest → JobRuns s run e q → q.releasePending = false →
      run.job.kind = .sealNotice → s.composer.notice = some n →
      s.noticeWindow = some run.job.window →
      (∀ x ∈ s.fault.queue, x.hostTaken = false ∧ x.office ≠ .no) →
      let b := (s.landed r rest false).withoutJob
      ∃ t, exec (.headLineWriteDone false) s = .next t ∧
        t.composer.published = (s.composer.published + 1) % 4294967296 ∧
        (s.fault.countersWriting = false → WritesCounters b t t) ∧
        (s.fault.countersWriting = true →
          t.requests = b.requests ∧ t.fault.countersStale = true))) ∧
  ∀ (s : State) (r : InternalRequest) (rest : List Flight) (error : Bool),
    Quiet s → Oldest s .counters r rest → s.path.unissued = [] → s.internalCount ≤ 16 →
    s.fault.countersArmed = true →
    ∃ t, exec (.countersWriteDone error) s = .next t ∧ EndsAs (s.landed r rest error) t [] [] ∧
      (error = true → t.requests = s.requests ∧ t.fault.countersStale = true ∧
        t.fault.countersWriting = false ∧ t.fault.countersWanted = false) ∧
      (error = false → s.fault.countersWanted = false → t.requests = s.requests ∧
        t.fault.countersWriting = false ∧ t.fault.countersStale = s.fault.countersStale) ∧
      (error = false → s.fault.countersWanted = true → WritesCounters s s t)

/-! ### Time -/

/-- A tick event at which no report of an earlier one is left: the count goes up by
one, wrapping, and every record's age goes up by one, stopping at 65,535. A part
that is not running counts no tick. (That the step tells no owner is the model's
choice, log 5; that a held part counts none, log 19.) -/
def Obligations.TickAdvances : Prop :=
  ∀ s : State,
    (s.mode = .running → (∀ m ∈ allReports, s.reportDue m = false) →
      exec .tick s = .next
        { s with
          time := { s.time with tick := s.time.tick + 1 },
          fault := { s.fault with
            queue := s.fault.queue.map fun r => { r with age := min 65535 (r.age + 1) } } }) ∧
    (s.mode ≠ .running → exec .tick s = .next s)

/-- A mark set at most 2^30 ticks ahead is not reached before the count equals it,
and is reached then and for the next 2^31 - 1 ticks. -/
def Obligations.MarksAreReachedOnTime : Prop :=
  ∀ (now : Tick) (distance k : Nat), distance ≤ 1073741824 →
    (k < distance → reached (ahead now k) (ahead now distance) = false) ∧
      (distance ≤ k → k < distance + 2147483648 →
        reached (ahead now k) (ahead now distance) = true)

/-- A heartbeat does nothing while the watch is off; else it restarts the mark, and
clears a set silent flag with CONTROLLER_RESUMED. -/
def Obligations.HeartbeatRestartsWatch : Prop :=
  ∀ s : State, Quiet s →
    let w := s.time.heartbeat
    let mark : Mark := { value := some (s.time.tick + BitVec.ofNat 32 w.period), latch := false }
    (w.period = 0 → ∃ t, exec .heartbeat s = .next t ∧ EndsAs s t [] []) ∧
    (w.period ≠ 0 → ∃ t, exec .heartbeat s = .next t ∧
      EndsAs
        { s with time := { s.time with heartbeat := { w with mark := mark, silent := false } } } t []
        (if w.silent then
          [{ kind := .controllerResumed, context := none, window := none, parcel := none,
             generation := none, detailA := 0, detailB := 0 }]
         else []))

/-- The heartbeat mark and a link-silence mark, reached: the silent flag is set,
CONTROLLER_SILENT or LINK_SILENT is raised, and the mark loses its value. The gather
mark and the retry mark, reached while no notice can start: the latch is set. A
report of one of these marks that is not due, with no value, a latch already set or a
value not yet reached, changes nothing (the model's choice, log 4). -/
def Obligations.WatchAndComposerMarksReached : Prop :=
  ∀ (s : State) (c : Ctx) (v : Tick), Quiet s →
    let due : Mark := { value := some v, latch := false }
    let idle : Mark → Prop := fun m =>
      ∀ u, m = { value := some u, latch := false } → reached s.time.tick u = false
    let absent : Mark := { value := none, latch := false }
    let silent := fun (kind : RecordKind) (context : Option Nat) =>
      ([{ kind := kind, context := context, window := none, parcel := none, generation := none,
          detailA := 0, detailB := 0 }] : List FaultEvent)
    (reached s.time.tick v = true →
      (s.time.heartbeat.mark = due →
        GoesTo s .heartbeatMarkReached
          { s with time := { s.time with
            heartbeat := { s.time.heartbeat with mark := absent, silent := true } } } []
          (silent .controllerSilent none)) ∧
      ((s.link c).mark = due →
        GoesTo s (.linkSilenceMarkReached c)
          { s with time := { s.time with
            links := s.time.links.set c { s.link c with mark := absent, silent := true } } } []
          (silent .linkSilent (some c.val))) ∧
      (s.composer.gather = due →
        GoesTo s .gatherMarkReached
          { s with composer := { s.composer with gather := { due with latch := true } } } [] []) ∧
      (s.composer.retry = due →
        GoesTo s .retryMarkReached
          { s with composer := { s.composer with retry := { due with latch := true } } } [] [])) ∧
    ((idle s.time.heartbeat.mark → exec .heartbeatMarkReached s = .next s) ∧
      (idle (s.link c).mark → exec (.linkSilenceMarkReached c) s = .next s) ∧
      (idle s.composer.gather → exec .gatherMarkReached s = .next s) ∧
      (idle s.composer.retry → exec .retryMarkReached s = .next s))

/-- The gather mark, reached with the conditions of R147 met: a notice starts. It
opens the parcel at the ring position under the chosen context, takes the oldest
records at NO, at most four, IN_FLIGHT, and issues the write of each image, enciphered, to
payload lines 1, 2, .... What the open brings about in the key table, renewal due, the
exhaustion of the generation and the changeover that follows, happens and is told after
the records have been taken (that it is told after them is the model's choice, log 16;
that every record with a carried ordinal is taken, log 36). (A notice that starts at
another examination event is not this case.) -/
def Obligations.NoticeStarts : Prop :=
  ∀ (s : State) (v : Tick) (w : WindowIndex) (e : Window) (q : ParcelRecord) (c : Ctx)
    (i : SlotId) (carried : List FaultRecord) (o : State) (events : List FaultEvent),
    Quiet s → s.composer.phase = .idle →
    s.composer.gather = { value := some v, latch := false } → reached s.time.tick v = true →
    (s.composer.retry.value = none ∨ s.composer.retry.latch = true) →
    s.noticeWindow = some w → s.window w = some e → e.direction = .outbound →
    s.parcel w s.composer.ring = some q → q.state = .free →
    carried = (s.fault.queue.filter fun r => decide (r.office = .no)).take 4 → carried ≠ [] →
    (c = e.context ∨
      (s.usableSlot e.context = none ∨ (s.link e.context).silent = true) ∧
        (s.context e.context).settings.fallback = some c) →
    (s.link c).silent = false → Opens s w s.composer.ring c i .composer o events →
    let k := s.slot i
    let left := (s.fault.queue.filter fun r => decide (r.office = .no)).drop 4
    GoesTo s .gatherMarkReached
      { o with
        fault := { s.fault with queue := s.fault.queue.map fun r =>
          if r.ordinal ∈ carried.map FaultRecord.ordinal then { r with office := .inFlight }
          else r },
        composer := { s.composer with
          phase := .writing,
          gather := s.gatherBy
            (left.filter fun r => decide (r.ordinal ∉ carried.map FaultRecord.ordinal)),
          notice := some { parcel := s.composer.ring, context := c,
                           ordinals := carried.map FaultRecord.ordinal,
                           writesLeft := carried.length } } }
      (carried.zipIdx.map fun x =>
        { purpose := .noticeImage, ignored := false,
          address := e.base + 2048 * s.composer.ring + 32 * (x.2 + 1),
          access := wholeLine (applyKeystream (s.imageOf x.1)
            (keystream k.trafficKey k.context.val 1 k.generation k.nextSequence (x.2 + 1) 0 32)),
          orderPoint := s.path.nextSerial }) events

/-! ### Keys -/

/-- The activation mark of an AT_MARK staged slot is reached: its latch is set; if
the slot is its context's staged head the context changes over to it, with the group
activation that follows, or with the changeover to a promoted tail whose own trigger
applies; if it waits behind the head nothing else happens. -/
def Obligations.ActivationMarkReached : Prop :=
  ∀ (s : State) (i : SlotId), Quiet s → OneEach s → i ≠ 0 →
    (s.slot i).state = .staged → (s.slot i).mode = .atMark →
    (s.slot i).activationLatch = false → reached s.time.tick (s.slot i).activationMark = true →
    let c := (s.slot i).context
    let latched : KeySlot := { s.slot i with activationLatch := true }
    let s1 : State := { s with keys := { s.keys with slots := s.keys.slots.set i latched } }
    (∀ changes, s.stagedHead c = some i → Cascades s c changes →
      GoesTo s (.activationMarkReached i) (s1.changedAll changes) []
        (s1.changedAllEvents changes)) ∧
    (s.stagedHead c ≠ some i →
      ∃ t, exec (.activationMarkReached i) s = .next t ∧ EndsAs s1 t [] [])

/-- The expiry mark of a slot is reached: its latch is set. For an ACTIVE slot, with a
staged head its context changes over, with what follows that changeover; with none the
slot drains, the one that drained leaves, KEY_EXPIRED is raised and the hold line is
asserted. Once an activated slot has left ACTIVE nothing else happens (DEDUCED, log 38). -/
def Obligations.ExpiryMarkReached : Prop :=
  ∀ (s : State) (i : SlotId), Quiet s → OneEach s → i ≠ 0 →
    (s.slot i).expiryLatch = false → reached s.time.tick (s.slot i).expiryMark = true →
    let c := (s.slot i).context
    let expired : KeySlot := { s.slot i with expiryLatch := true }
    let s1 : State := { s with keys := { s.keys with slots := s.keys.slots.set i expired } }
    (∀ changes, (s.slot i).state = .active → Cascades s c changes →
      GoesTo s (.expiryMarkReached i) (s1.changedAll changes) []
        (s1.changedAllEvents changes)) ∧
    ((s.slot i).state ≠ .active → (s.slot i).activated = true →
      GoesTo s (.expiryMarkReached i) s1 [] []) ∧
    ((s.slot i).state = .active → s.stagedHead c = none →
      ∃ t, exec (.expiryMarkReached i) s = .next t ∧
        EndsAs
          { s with keys := { s.keys with
            slots := Vector.ofFn fun j =>
              if j = i then
                { expired with
                  state := .draining, drainLatch := false,
                  drainDeadline := ahead s.time.tick (s.context c).settings.drainPeriod }
              else if s.drainingSlot c = some j then (s.slot j).gone
              else s.slot j,
            contexts := s.keys.contexts.set c { s.context c with holdLine := true } } } t []
          [keyEvent .keyExpired c expired.generation 0 0])

/-- The renewal-due mark of a slot is reached: its latch is set, and for an ACTIVE slot
RENEWAL_DUE is raised once, when nothing is staged; once an activated slot has left
ACTIVE nothing else happens (DEDUCED, log 38). The drain deadline of a
DRAINING slot is reached: the slot leaves service, EMPTY when no record names it. -/
def Obligations.RenewalDueAndDrainReached : Prop :=
  ∀ (s : State) (i : SlotId), Quiet s → OneEach s → i ≠ 0 →
    let k := s.slot i
    let put := fun (k' : KeySlot) =>
      ({ s with keys := { s.keys with slots := s.keys.slots.set i k' } } : State)
    (k.state = .active → k.renewalDueLatch = false →
      reached s.time.tick k.renewalDueMark = true →
      (k.renewalDueRaised = false → s.slotsIn k.context .staged = [] →
        ∃ t, exec (.renewalDueMarkReached i) s = .next t ∧
          EndsAs (put { k with renewalDueLatch := true, renewalDueRaised := true }) t []
            [keyEvent .renewalDue k.context k.generation (k.budget - k.usage)
              (if k.expiryLatch then 0 else (k.expiryMark - s.time.tick).toNat)]) ∧
      (k.renewalDueRaised = true ∨ s.slotsIn k.context .staged ≠ [] →
        ∃ t, exec (.renewalDueMarkReached i) s = .next t ∧
          EndsAs (put { k with renewalDueLatch := true }) t [] [])) ∧
    (k.state ≠ .active → k.activated = true → k.renewalDueLatch = false →
      reached s.time.tick k.renewalDueMark = true →
      GoesTo s (.renewalDueMarkReached i) (put { k with renewalDueLatch := true }) [] []) ∧
    (k.state = .draining → k.drainLatch = false → reached s.time.tick k.drainDeadline = true →
      ∃ t, exec (.drainDeadlineReached i) s = .next t ∧
        EndsAs
          (put (if k.references = 0 then KeySlot.blank
                else { k with state := .retiring, drainLatch := true })) t [] [])

/-! ### The command unit -/

/-- What the taking of a command does, by its code: nothing for code 0 or while
another command is in progress (the model's reading, log 4); UNKNOWN_COMMAND for a
code above 13; PURGE performed at once; RESTART: the ticket is kept, no request is
taken any more, internal requests not granted are discarded and the results of the
granted ones ignored; for any other code the read of the argument line. -/
def Obligations.CommandIsTaken : Prop :=
  ∀ (s : State) (code : Byte) (ticket : BitVec 24), Quiet s →
    let n := code.toNat
    let latched : CommandUnit :=
      { s.command with code := n, ticket := ticket.toNat, arguments := [] }
    (s.command.phase ≠ .idle ∨ n = 0 →
      ∃ t, exec (.commandTaken code ticket) s = .next t ∧ EndsAs s t [] []) ∧
    (s.command.phase = .idle → 13 < n →
      ∃ t, exec (.commandTaken code ticket) s = .next t ∧
        EndsAs
          { s with command := { latched with
            phase := .writingResult, resultTicket := ticket.toNat,
            resultStatus := .unknownCommand, resultDetail := n, snapshot := none } } t
          [s.resultWrite ticket.toNat .unknownCommand n] []) ∧
    (s.command.phase = .idle → n = 11 →
      exec (.commandTaken code ticket) s = exec (.purge ticket) s) ∧
    (s.command.phase = .idle → n = 13 →
      exec (.commandTaken code ticket) s = exec (.restart ticket) s) ∧
    (s.command.phase = .idle → exec (.restart ticket) s = .next
      { s with
        mode := .restarting,
        command := { s.command with restartTicket := ticket.toNat },
        path := { s.path with
          internal := [], unissued := [],
          flight := s.path.flight.map fun f =>
            match f with
            | .passing p => .passing p
            | .internal r => .internal { r with ignored := true } } }) ∧
    (s.command.phase = .idle → 1 ≤ n → n ≤ 12 → n ≠ 11 →
      ∃ t, exec (.commandTaken code ticket) s = .next t ∧
        EndsAs { s with command := { latched with phase := .readingArguments } } t
          [{ purpose := .argument, ignored := false, address := 0xFFF000, access := .read 32,
             orderPoint := s.path.nextSerial }] [])

/-- A purge, taken in IDLE: every usable slot becomes EMPTY, every parcel record
that held one goes FREE, all four hold lines are asserted, floors, settings and
grouping stay, KEYS_PURGED counts the slots emptied, and the result is DONE. The seals
leave the tag engine's queue, waiting or not; a running seal, or check whose parcel
holds a slot, ends with its requests' results ignored, and any other running job goes
on. Each entry freed goes to the deferred head, and the next job starts when none runs.
A notice in progress fails: its records are at NO again and no retry mark is set. (The
order of these effects is the model's choice, log 27, and so is that every record with an
ordinal of the notice returns to NO, log 36.) -/
def Obligations.PurgeEmptiesSlots : Prop :=
  ∀ (s : State) (ticket : BitVec 24), Quiet s → s.command.phase = .idle → NullSlotBlank s →
    let n := (usableSlots.filter fun i => decide ((s.slot i).state ≠ .empty)).length
    let ends : Bool := s.tag.running.any fun run =>
      run.job.kind.seals ||
        (s.parcel run.job.window run.job.parcel).any fun q => q.slot.isSome
    let idle : Bool := ends || s.tag.running.isNone
    let jobs := s.tag.queue.filter fun j => !j.kind.seals
    let room := (if idle then 17 else 16) - jobs.length
    let given := s.tag.deferred.take room
    let waiting := jobs ++ given.map fun d => s.deferredJob d.1 d.2
    let first := if idle then waiting.head? else none
    let b : State := (if ends then s.discard tagPurpose else s).noticeDropped
    ((∀ j ∈ first, (s.parcel j.window j.parcel).isSome = true) →
      GoesTo s (.purge ticket)
        { b with
          windows := s.purgedWindows given,
          tag :=
            { queue := if idle then waiting.tail else waiting,
              running :=
                if idle then first.map fun j => j.started ParcelRecord.blank else s.tag.running,
              deferred := s.tag.deferred.drop room, waitingSeal := none },
          keys := { s.keys with
            slots := Vector.replicate 16 KeySlot.blank,
            contexts := s.keys.contexts.map fun row => { row with holdLine := true } },
          command := { s.command with
            phase := .writingResult, code := 11, ticket := ticket.toNat, arguments := [],
            resultTicket := ticket.toNat, resultStatus := .done, resultDetail := n,
            snapshot := none } }
        ((match first with
          | none => []
          | some j =>
            match s.window j.window with
            | none => []
            | some e => j.reads e ParcelRecord.blank) ++
          [s.resultWrite ticket.toNat .done n])
        [{ kind := .keysPurged, context := none, window := none, parcel := none,
           generation := none, detailA := n, detailB := 0 }]) ∧
    (∃ t, exec (.purge ticket) s = .next t ∧ (∀ i, t.slot i = KeySlot.blank) ∧
      (∀ j ∈ t.tag.queue, j.kind ≠ .sealData ∧ j.kind ≠ .sealNotice) ∧
      t.tag.waitingSeal = none)

/-- DEFINE_WINDOW with every check passed: the entry becomes valid with all its
parcels FREE, its refusal counter returns to 0, and a record linked to that counter
keeps the value it held; a NOTICE window puts the ring at 0. CLEAR_WINDOW of a
window whose parcels are all FREE: the entry becomes invalid; when its role was
NOTICE, records at NO or IN_FLIGHT become NOT_REQUIRED and the composer's ring and
marks are cleared. (That the counter loses its first reason and first parcel is the
model's reading, log 21; that every record with the linked ordinal is frozen is its choice,
log 36. A clearing at which a record leaves is not this case.) -/
def Obligations.WindowCommands : Prop :=
  ∀ (s : State) (words : List Nat) (rest : List Flight) (w : WindowIndex) (e : Window),
    Quiet s → argument words 1 = w.val →
    (ArgumentsRead s 1 words rest → argument words 2 = e.base → argument words 3 = e.count →
      argument words 4 = e.direction.code → argument words 5 = e.role.code →
      argument words 6 = e.context.val → e.parcels = List.replicate e.count ParcelRecord.blank →
      1 ≤ e.count → e.count ≤ 64 → e.base % 2048 = 0 → e.base + 2048 * e.count ≤ 16773120 →
      ¬(e.role = .notice ∧ e.direction = .inbound) →
      ¬(e.role = .renewal ∧ e.direction = .outbound) →
      s.renewal.provisioned = true → s.window w = none →
      (∀ v, ∀ f ∈ s.window v,
        (e.base + 2048 * e.count ≤ f.base ∨ f.base + 2048 * f.count ≤ e.base) ∧
          ¬(e.role = .notice ∧ f.role = .notice) ∧ ¬(e.role = .renewal ∧ f.role = .renewal)) →
      EndsCommand s .defineWindow
        { s.ended words rest .done 0 with
          windows := s.windows.set w (some e),
          fault := { s.fault with
            counters := s.fault.counters.set w.val
              { value := 0, firstReason := none, firstParcel := none, link := none },
            queue := s.fault.queue.map fun r =>
              if (s.counter w.castSucc).link = some r.ordinal then
                { r with event := { r.event with detailA := (s.counter w.castSucc).value } }
              else r },
          composer := { s.composer with
            ring := if e.role = .notice then 0 else s.composer.ring } }
        [] .done 0 []) ∧
    (ArgumentsRead s 2 words rest → s.window w = some e →
      (∀ q ∈ e.parcels, q.state = .free) →
      (e.role ≠ .notice →
        EndsCommand s .clearWindow
          { s.ended words rest .done 0 with windows := s.windows.set w none } [] .done 0 []) ∧
      (e.role = .notice → (∀ v, ∀ f ∈ s.window v, f.role = .notice → v = w) →
        (∀ r ∈ s.fault.queue, r.hostTaken = false) →
        EndsCommand s .clearWindow
          { s.ended words rest .done 0 with
            windows := s.windows.set w none,
            fault := { s.fault with queue := s.fault.queue.map fun r =>
              if r.office = .no ∨ r.office = .inFlight then { r with office := .notRequired }
              else r },
            composer := { s.composer with
              ring := 0, gather := { value := none, latch := false },
              retry := { value := none, latch := false } } } [] .done 0 []))

/-- SET_CONTEXT: the settings are replaced, each clamped to its range; the renewal-due
mark of an ACTIVE generation that has not raised RENEWAL_DUE is set anew and renewal
due is evaluated; the hold line is re-evaluated; the link-silence watch takes its
period, and with period 0 a set silent flag clears with LINK_RESUMED. -/
def Obligations.SetContextReplacesSettings : Prop :=
  ∀ (s : State) (words : List Nat) (rest : List Flight) (c : Ctx) (f : Option Ctx),
    Quiet s → OneEach s → ArgumentsRead s 3 words rest → argument words 1 % 256 = c.val →
    (argument words 1 / 256 % 256 = 255 ∧ f = none ∨
      f.isSome = true ∧ f.map Fin.val = some (argument words 1 / 256 % 256)) →
    let row := s.context c
    let new : Settings :=
      { drainPeriod := max 1 (min 65535 (argument words 2)),
        reserveParcels := min 65535 (argument words 3),
        reserveTicks := min 1073741824 (argument words 4),
        holdLow := min 65535 (argument words 5),
        holdHigh := max (min 65535 (argument words 5)) (min 65535 (argument words 6)),
        linkSilence := min 1073741824 (argument words 7),
        fallback := if f = some c then none else f }
    let mark := fun (k : KeySlot) => k.expiryMark - BitVec.ofNat 32 new.reserveTicks
    let due := fun (k : KeySlot) => !k.renewalDueRaised &&
      (decide (k.budget - k.usage ≤ new.reserveParcels) || reached s.time.tick (mark k)) &&
      (s.slotsIn c .staged).isEmpty
    let link := s.link c
    EndsCommand s .setContext
      { s.ended words rest .done 0 with
        keys := { s.keys with
          slots :=
            match s.activeSlot c with
            | none => s.keys.slots
            | some a =>
              if (s.slot a).renewalDueRaised then s.keys.slots
              else s.keys.slots.set a
                { s.slot a with
                  renewalDueMark := mark (s.slot a),
                  renewalDueLatch := reached s.time.tick (mark (s.slot a)),
                  renewalDueRaised := due (s.slot a) },
          contexts := s.keys.contexts.set c
            { row with
              settings := new,
              holdLine :=
                match s.activeSlot c with
                | none => true
                | some a =>
                  ContextRow.levelAt { row with settings := new }
                    ((s.slot a).budget - (s.slot a).usage) } },
        time := { s.time with
          links := s.time.links.set c
            (if new.linkSilence = 0 then
              { period := 0, mark := { value := none, latch := false }, silent := false }
             else
              { period := new.linkSilence, silent := link.silent,
                mark := { value := some (ahead s.time.tick new.linkSilence), latch := false } }) } }
      [] .done 0
      ((match s.activeSlot c with
        | none => []
        | some a =>
          if due (s.slot a) then
            [keyEvent .renewalDue c (s.slot a).generation ((s.slot a).budget - (s.slot a).usage)
              (s.remainingTicks (s.slot a))]
          else []) ++
        if new.linkSilence = 0 ∧ link.silent = true then
          [{ kind := .linkResumed, context := some c.val, window := none, parcel := none,
             generation := none, detailA := 0, detailB := 0 }]
        else [])

/-- SET_GROUPING sets the grouping, and by it the groups of R84. SET_NOTICE sets the
gather time, clamped, and the gather mark follows. SET_HEARTBEAT sets the period,
clamped, and arms the watch from now, or turns it off, with CONTROLLER_RESUMED when
the controller was recorded as silent. -/
def Obligations.SettingCommands : Prop :=
  ∀ (s : State) (words : List Nat) (rest : List Flight) (g : Grouping), Quiet s →
    (ArgumentsRead s 4 words rest → argument words 1 = g.code →
      EndsCommand s .setGrouping
        { s.ended words rest .done 0 with keys := { s.keys with grouping := g } } [] .done 0 []) ∧
    (∀ c : Ctx, Grouping.group .solo c = [c] ∧ Grouping.group .all c = [0, 1, 2, 3] ∧
      Grouping.group .pairs c = (if c = 0 ∨ c = 1 then [0, 1] else [2, 3])) ∧
    (ArgumentsRead s 5 words rest →
      let n := min 65535 (argument words 1)
      EndsCommand s .setNotice
        { s.ended words rest .done 0 with composer := { s.composer with
          gatherTime := n,
          gather :=
            State.gatherBy { s with composer := { s.composer with gatherTime := n } }
              s.fault.queue } }
        [] .done 0 []) ∧
    (ArgumentsRead s 6 words rest →
      let n := min 1073741824 (argument words 1)
      EndsCommand s .setHeartbeat
        { s.ended words rest .done 0 with time := { s.time with
          heartbeat :=
            if n = 0 then
              { period := 0, mark := { value := none, latch := false }, silent := false }
            else
              { period := n, silent := s.time.heartbeat.silent,
                mark := { value := some (ahead s.time.tick n), latch := false } } } }
        [] .done 0
        (if n = 0 ∧ s.time.heartbeat.silent = true then
          [{ kind := .controllerResumed, context := none, window := none, parcel := none,
             generation := none, detailA := 0, detailB := 0 }]
         else []))

/-- SEAL of a FILLING parcel of the controller: the parcel becomes SEALING with its
length; the job starts at once and issues its payload reads when the engine is
free, waits in the queue when a job runs, and is answered BUSY, with nothing
changed, when the queue is full. -/
def Obligations.SealCommand : Prop :=
  ∀ (s : State) (words : List Nat) (rest : List Flight) (w : WindowIndex) (e : Window)
    (q : ParcelRecord),
    Quiet s → ArgumentsRead s 7 words rest →
    let p := argument words 2
    let length := argument words 3
    argument words 1 = w.val → s.window w = some e → p < e.count → s.parcel w p = some q →
    q.state = .filling → q.owner = some .controller → 1 ≤ length → length ≤ 2016 →
    let job : Job :=
      { window := w, parcel := p, kind := .sealData, orderPoint := s.path.nextSerial }
    let lines := (length + 31) / 32
    let windows := (s.updateParcel w p fun x =>
      { x with state := .sealing, length := some length }).windows
    (s.tag = { queue := [], running := none, deferred := [], waitingSeal := none } →
      EndsCommand s .sealParcel
        { s.ended words rest .done 0 with
          windows := windows,
          tag := { s.tag with
            running := some { job := job, head := none, payload := [], linesLeft := lines } } }
        ((List.range lines).map fun k =>
          { purpose := .sealRead, ignored := false, address := e.base + 2048 * p + 32 * (k + 1),
            access := .read 32, orderPoint := s.path.nextSerial }) .done 0 []) ∧
    (s.tag.running ≠ none → s.tag.queue.length < 16 → s.tag.deferred = [] →
      s.tag.waitingSeal = none →
      EndsCommand s .sealParcel
        { s.ended words rest .done 0 with
          windows := windows, tag := { s.tag with queue := s.tag.queue ++ [job] } }
        [] .done 0 []) ∧
    (s.tag.queue.length = 16 →
      EndsCommand s .sealParcel (s.ended words rest .busy 0) [] .busy 0 [])

/-- RELEASE, by the parcel's state (R17): a parcel that no job holds goes FREE and
hands its slot back; one in the deferred list leaves the list, one whose job waits
leaves the queue, and one whose job runs gets the release-pending mark, or goes FREE at
once with its job when nothing the job issued is outstanding; the other states are
REFUSED with their code. The results of a job whose parcel carries the mark are dropped,
errors too, and the last one ends the job: the parcel goes FREE and nothing is told.
(A job that ends here starts no other, since nothing waits.) -/
def Obligations.ReleaseCommand : Prop :=
  (∀ (s : State) (r : InternalRequest) (rest : List Flight) (run : Running) (e : Window)
    (q : ParcelRecord) (p : Purpose) (c : Instr) (error : Bool),
    Quiet s → Oldest s p r rest → JobRuns s run e q → q.releasePending = true →
    (p, c) ∈ [(.sealRead, .sealReadbackDone error), (.headWrite, .headLineWriteDone error),
      (.checkHead, .checkHeadLineRead error), (.checkPayload, .checkPayloadRead error),
      (.renewalHead, .renewalHeadLineRead error),
      (.renewalPayload, .renewalPayloadRead error)] →
    let b := s.landed r rest error
    (b.awaits tagPurpose = true → GoesTo s c b [] []) ∧
    (b.awaits tagPurpose = false →
      GoesTo s c (b.withoutJob.withoutParcel run.job.window run.job.parcel q) [] [])) ∧
  ∀ (s : State) (words : List Nat) (rest : List Flight) (w : WindowIndex) (e : Window)
    (q : ParcelRecord),
    Quiet s → ArgumentsRead s 8 words rest →
    let p := argument words 2
    argument words 1 = w.val → s.window w = some e → p < e.count → s.parcel w p = some q →
    let freed := fun (tag : TagEngine) =>
      ({ s.ended words rest .done 0 with
        windows := (s.updateParcel w p fun _ => ParcelRecord.blank).windows,
        tag := tag,
        keys :=
          match q.slot with
          | none => s.keys
          | some i => (s.updateSlot i fun k =>
              if k.state = .retiring ∧ k.references ≤ 1 then KeySlot.blank
              else { k with references := k.references - 1 }).keys } : State)
    let held := q.state = .checking ∨ q.state = .sealing ∧ q.owner = some .controller
    (q.state = .filling ∧ q.owner = some .controller ∨ q.state = .sealed ∨ q.state = .arriving ∨
        q.state = .admitted ∧ e.role ≠ .renewal ∨ q.state = .rejected →
      EndsCommand s .release (freed s.tag) [] .done 0 []) ∧
    (held → q.releasePending = false → (w, p) ∈ s.tag.deferred →
      EndsCommand s .release
        (freed { s.tag with deferred := s.tag.deferred.filter fun d => decide (d ≠ (w, p)) })
        [] .done 0 []) ∧
    (held → q.releasePending = false → s.tag.deferred = [] → s.tag.waitingSeal = none →
      s.tag.running ≠ none → (∃ j ∈ s.tag.queue, j.window = w ∧ j.parcel = p) →
      EndsCommand s .release
        (freed { s.tag with
          queue := s.tag.queue.filter fun j => !(decide (j.window = w) && decide (j.parcel = p)) })
        [] .done 0 []) ∧
    (held → q.releasePending = false → (w, p) ∉ s.tag.deferred →
      (∀ j ∈ s.tag.queue, ¬(j.window = w ∧ j.parcel = p)) →
      (s.tag.running.map fun run => (run.job.window, run.job.parcel)) = some (w, p) →
      State.awaits { s with path := { s.path with flight := rest } } tagPurpose = true →
      let b := s.ended words rest .done 0
      EndsCommand s .release
        { b with
          windows := (s.updateParcel w p fun x => { x with releasePending := true }).windows,
          path := { b.path with
            unissued := s.path.unissued.filter fun x => !tagPurpose x.purpose } } [] .done 0 []) ∧
    (∀ run, held → q.releasePending = false → JobRuns s run e q → run.job.window = w →
      run.job.parcel = p →
      State.awaits { s with path := { s.path with flight := rest } } tagPurpose = false →
      EndsCommand s .release ((s.ended words rest .done 0).withoutJob.withoutParcel w p q)
        [] .done 0 []) ∧
    (q.state = .free ∨ q.state = .filling ∧ q.owner ≠ some .controller ∨
        q.state = .sealing ∧ q.owner ≠ some .controller ∨ held ∧ q.releasePending = true ∨
        q.state = .admitted ∧ e.role = .renewal →
      EndsCommand s .release (s.ended words rest .refused q.state.code) [] .refused
        q.state.code [])

/-- ACTIVATE_NOW changes the context over to its staged head, with what follows that
changeover, and answers DONE with the new generation. RETIRE takes a generation out of
service: its slot becomes RETIRING, or EMPTY when no record names it, KEY_RETIRED is
raised and the hold line is re-evaluated. RETIRE of the staged head with a tail behind
it promotes the tail, to which the context changes over at once when its own trigger
applies or the ACTIVE generation is exhausted; with none, renewal due is evaluated. (That
KEY_RETIRED comes before the records of such a changeover is the model's choice, log 39.) -/
def Obligations.KeyCommands : Prop :=
  ∀ (s : State) (words : List Nat) (rest : List Flight) (c : Ctx) (i : SlotId)
    (changes : List (Ctx × SlotId)),
    Quiet s → OneEach s → argument words 1 = c.val →
    let held : Bool :=
      match s.activeSlot c with
      | none => true
      | some a => (s.context c).levelAt ((s.slot a).budget - (s.slot a).usage)
    let gone : State := { s with keys := { s.keys with slots := s.keys.slots.set i (s.slot i).gone } }
    let left : State :=
      { gone with keys := { gone.keys with
        contexts := s.keys.contexts.set c
          { s.context c with holdLine := if (s.slot i).state = .active then true else held } } }
    let ends := fun (x : State) (events : List FaultEvent) =>
      EndsCommand s .retire { s.ended words rest .done 0 with keys := x.keys } [] .done 0
        (keyEvent .keyRetired c (argument words 2) 0 0 :: events)
    (ArgumentsRead s 9 words rest → s.stagedHead c = some i → Cascades s c changes →
      EndsCommand s .activateNow
        { s.ended words rest .done (s.slot i).generation with keys := (s.changedAll changes).keys }
        [] .done (s.slot i).generation (s.changedAllEvents changes)) ∧
    (ArgumentsRead s 10 words rest → 1 ≤ argument words 2 → argument words 2 ≤ 65535 →
      s.retirable c (argument words 2) = some i →
      (((s.slot i).state = .staged → s.stagedHead c ≠ some i) → ends left []) ∧
      (∀ j, s.stagedHead c = some i → j ≠ i → (∀ x, x ∈ s.slotsIn c .staged ↔ x = i ∨ x = j) →
        (¬Triggers s j → s.exhausted c = false → ends left []) ∧
        (Triggers s j ∨ s.exhausted c = true → Cascades gone c changes →
          ends (gone.changedAll changes) (gone.changedAllEvents changes))) ∧
      (s.slotsIn c .staged = [i] →
        (∀ a, s.activeSlot c = some a →
          let k := s.slot a
          k.renewalDueRaised = false →
          k.budget - k.usage ≤ (s.context c).settings.reserveParcels ∨
            k.renewalDueLatch = true →
          ends
            { left with keys := { left.keys with
              slots := left.keys.slots.set a { k with renewalDueRaised := true } } }
            [keyEvent .renewalDue c k.generation (k.budget - k.usage) (s.remainingTicks k)]) ∧
        ((∀ a ∈ s.activeSlot c,
            (s.slot a).renewalDueRaised = true ∨
              (s.context c).settings.reserveParcels < (s.slot a).budget - (s.slot a).usage ∧
                (s.slot a).renewalDueLatch = false) →
          ends left [])))

/-- SNAPSHOT of each kind: the images are made as the state stands, the header line
is kept, the phase becomes WRITING_SNAPSHOT and the entry writes are issued in
ascending address order from offset 0x120. -/
def Obligations.SnapshotIsTaken : Prop :=
  ∀ (s : State) (words : List Nat) (rest : List Flight) (w : WindowIndex) (e : Window),
    Quiet s → ArgumentsRead s 12 words rest →
    let takes := fun (kind window count size : Nat) (entries tail : List Byte) =>
      ∃ t, exec .snapshot s = .next t ∧
        EndsAs
          { s with
            path := { s.path with flight := rest },
            command := { s.command with
              phase := .writingSnapshot, arguments := words,
              snapshot := some {
                header := leBytes 4 kind ++ leBytes 4 window ++ leBytes 4 count ++ leBytes 4 size ++
                  leBytes 4 s.command.ticket ++ leBytes 4 s.time.tick.toNat ++ tail,
                entries := count, writesLeft := (entries.length + 31) / 32 } } } t
          ((List.range ((entries.length + 31) / 32)).map fun k =>
            { purpose := .snapshotEntry, ignored := false, address := 0xFFF120 + 32 * k,
              access := wholeLine (((entries.drop (32 * k)).take 32).rightpad 32 0),
              orderPoint := s.path.nextSerial }) []
    (argument words 1 = 1 →
      takes 1 0 16 64 (([0, 1, 2, 3, 4, 5, 6, 7, 8, 9, 10, 11, 12, 13, 14, 15].map fun i =>
        keysEntry (s.slot i)).flatten) (List.replicate 8 0)) ∧
    (argument words 1 = 2 → argument words 2 = w.val → s.window w = some e →
      takes 2 w.val e.count 16
        ((e.parcels.zipIdx.map fun x => parcelsEntry x.1 (s.jobPosition w x.2)).flatten)
        (leBytes 4 e.base ++ leBytes 1 e.count ++ leBytes 1 e.direction.code ++
          leBytes 1 e.role.code ++ leBytes 1 e.context.val)) ∧
    (argument words 1 = 3 →
      takes 3 0 5 64 (s.partEntry ++ (([0, 1, 2, 3] : List Ctx).map s.contextEntry).flatten)
        (List.replicate 8 0))

/-- A failed argument read ends the command REFUSED 255 with MEMORY_ERROR. A result
write that completes returns the phase to IDLE, with MEMORY_ERROR after an error.
Snapshot writes that complete are counted; after the last entry the header is
written, after the header the result; an error ends the snapshot REFUSED 255 with
MEMORY_ERROR, and no further write of it is issued. -/
def Obligations.CommandWritesComplete : Prop :=
  ∀ (s : State) (r : InternalRequest) (rest : List Flight) (error : Bool), Quiet s →
    let failed : FaultEvent :=
      { kind := .memoryError, context := none, window := none, parcel := none,
        generation := none, detailA := 7, detailB := 0 }
    let answer := fun (status : Status) (detail : Nat) =>
      ({ s.command with
        phase := .writingResult, resultTicket := s.command.ticket, resultStatus := status,
        resultDetail := detail, snapshot := none } : CommandUnit)
    let result := fun (status : Status) (detail : Nat) =>
      s.resultWrite s.command.ticket status detail
    (Oldest s .argument r rest → r.access.isWrite = false →
      ∃ t, exec .argumentReadFailed s = .next t ∧
        EndsAs { s with path := { s.path with flight := rest }, command := answer .refused 255 } t
          [result .refused 255] [failed]) ∧
    (Oldest s .result r rest →
      ∃ t, exec (.resultWriteDone error) s = .next t ∧
        EndsAs { s.landed r rest error with command := { s.command with phase := .idle } } t []
          (if error then [failed] else [])) ∧
    (∀ run, s.command.snapshot = some run →
      Oldest s .snapshotEntry r rest ∨ Oldest s .snapshotHeader r rest →
      (error = false → 2 ≤ run.writesLeft →
        ∃ t, exec (.snapshotWriteDone error) s = .next t ∧
          EndsAs { s.landed r rest error with command := { s.command with
            snapshot := some { run with writesLeft := run.writesLeft - 1 } } } t [] []) ∧
      (error = false → run.writesLeft = 1 →
        ∃ t, exec (.snapshotWriteDone error) s = .next t ∧
          EndsAs
            { s.landed r rest error with command := { s.command with
              snapshot := some { run with writesLeft := 0 } } } t
            [{ purpose := .snapshotHeader, ignored := false, address := 0xFFF100,
               access := wholeLine run.header, orderPoint := s.path.nextSerial }] []) ∧
      (error = false → run.writesLeft = 0 →
        ∃ t, exec (.snapshotWriteDone error) s = .next t ∧
          EndsAs { s.landed r rest error with command := answer .done run.entries } t
            [result .done run.entries] []) ∧
      (error = true →
        ∃ t, exec (.snapshotWriteDone error) s = .next t ∧
          EndsAs
            { (s.landed r rest error).discard snapshotPurpose with
              command := answer .refused 255 } t
            [result .refused 255] [failed]))

/-- The first failing check of a command ends it with its status and detail, and
nothing else changes: the checks of each command in their order. -/
def Obligations.FailedChecksAnswer : Prop :=
  ∀ (s : State) (words : List Nat) (rest : List Flight) (c : Ctx) (e : Window)
    (q : ParcelRecord), Quiet s →
    let a := argument words
    let answers := fun (c : Instr) (status : Status) (detail : Nat) =>
      EndsCommand s c (s.ended words rest status detail) [] status detail []
    let window := fun (n : Nat) => (index? 8 n).bind s.window
    let shares := fun (f : Window) =>
      decide (a 2 < f.base + 2048 * f.count ∧ f.base < a 2 + 2048 * a 3)
    (ArgumentsRead s 1 words rest →
      (7 < a 1 → answers .defineWindow .badArgument 1) ∧
      (a 1 ≤ 7 → a 3 = 0 ∨ 64 < a 3 → answers .defineWindow .badArgument 2) ∧
      (a 1 ≤ 7 → 1 ≤ a 3 → a 3 ≤ 64 →
        (a 2 % 2048 ≠ 0 → answers .defineWindow .badArgument 3) ∧
        (a 2 % 2048 = 0 → 16773120 < a 2 + 2048 * a 3 → answers .defineWindow .badArgument 4) ∧
        (a 2 % 2048 = 0 → a 2 + 2048 * a 3 ≤ 16773120 →
          ((a 4 ≠ 1 ∧ a 4 ≠ 2) ∨ (a 5 = 0 ∨ 3 < a 5) ∨ 3 < a 6 →
            answers .defineWindow .badArgument 5) ∧
          (a 6 ≤ 3 → a 4 = 2 ∧ a 5 = 2 ∨ a 4 = 1 ∧ a 5 = 3 →
            answers .defineWindow .badArgument 6) ∧
          (a 6 ≤ 3 → (a 4 = 1 ∧ (a 5 = 1 ∨ a 5 = 2)) ∨ (a 4 = 2 ∧ (a 5 = 1 ∨ a 5 = 3)) →
            (s.renewal.provisioned = false → answers .defineWindow .refused 1) ∧
            (s.renewal.provisioned = true → (window (a 1)).isSome = true →
              answers .defineWindow .refused 2) ∧
            (s.renewal.provisioned = true → window (a 1) = none →
              (s.anyWindow shares = true → answers .defineWindow .refused 3) ∧
              (s.anyWindow shares = false → a 5 = 2 →
                s.anyWindow (fun f => decide (f.role = .notice)) = true →
                answers .defineWindow .refused 4) ∧
              (s.anyWindow shares = false → a 5 = 3 →
                s.anyWindow (fun f => decide (f.role = .renewal)) = true →
                answers .defineWindow .refused 5)))))) ∧
    (ArgumentsRead s 2 words rest →
      (7 < a 1 → answers .clearWindow .badArgument 1) ∧
      (a 1 ≤ 7 → window (a 1) = none → answers .clearWindow .refused 1) ∧
      (window (a 1) = some e → e.parcels.any (fun q => decide (q.state ≠ .free)) = true →
        answers .clearWindow .refused 2)) ∧
    (ArgumentsRead s 3 words rest →
      (3 < a 1 % 256 → answers .setContext .badArgument 1) ∧
      (a 1 % 256 ≤ 3 → 3 < a 1 / 256 % 256 → a 1 / 256 % 256 ≠ 255 →
        answers .setContext .badArgument 2)) ∧
    (ArgumentsRead s 4 words rest → 2 < a 1 → answers .setGrouping .badArgument 1) ∧
    (ArgumentsRead s 7 words rest →
      (7 < a 1 → answers .sealParcel .badArgument 1) ∧
      (a 1 ≤ 7 → window (a 1) = none → answers .sealParcel .badArgument 2) ∧
      (window (a 1) = some e → e.count ≤ a 2 → answers .sealParcel .badArgument 3) ∧
      (window (a 1) = some e → a 2 < e.count → e.parcels[a 2]? = some q →
        (a 3 = 0 ∨ 2016 < a 3 → answers .sealParcel .badArgument 4) ∧
        (1 ≤ a 3 → a 3 ≤ 2016 → q.state ≠ .filling ∨ q.owner ≠ some .controller →
          answers .sealParcel .refused q.state.code))) ∧
    (ArgumentsRead s 8 words rest →
      (7 < a 1 → answers .release .badArgument 1) ∧
      (a 1 ≤ 7 → window (a 1) = none → answers .release .badArgument 2) ∧
      (window (a 1) = some e → e.count ≤ a 2 → answers .release .badArgument 3)) ∧
    (ArgumentsRead s 9 words rest →
      (3 < a 1 → answers .activateNow .badArgument 1) ∧
      (a 1 = c.val → s.stagedHead c = none → answers .activateNow .refused 1)) ∧
    (ArgumentsRead s 10 words rest →
      (3 < a 1 → answers .retire .badArgument 1) ∧
      (a 1 = c.val →
        (a 2 = 0 ∨ 65535 < a 2 → answers .retire .badArgument 2) ∧
        (1 ≤ a 2 → a 2 ≤ 65535 → s.retirable c (a 2) = none → answers .retire .refused 1))) ∧
    (ArgumentsRead s 12 words rest →
      (a 1 = 0 ∨ 3 < a 1 → answers .snapshot .badArgument 1) ∧
      (a 1 = 2 → 7 < a 2 → answers .snapshot .badArgument 2) ∧
      (a 1 = 2 → a 2 ≤ 7 → window (a 2) = none → answers .snapshot .refused 1))

/-! ### The tag engine -/

/-- The words of a tag: each is reduced modulo P = 2^31 - 1 by R36's three cases
before Horner's rule takes it, words that differ by a multiple of P count alike, and
the keystream's counter block holds the sequence unreduced. -/
def Obligations.TagWordsAreReduced : Prop :=
  (∀ x, x ≤ 2147483646 → reduceWord x = x) ∧
    (∀ x, 2147483647 ≤ x → x ≤ 4294967293 → reduceWord x = x - 2147483647) ∧
    (∀ x, 4294967294 ≤ x → x ≤ 4294967295 → reduceWord x = x - 2 * 2147483647) ∧
    (∀ h, accumulate h [] = 0) ∧
    (∀ h w ws, accumulate h (ws ++ [w]) =
      ((accumulate h ws + reduceWord w) * h) % 2147483647) ∧
    (∀ h mask ws, tagOf h mask ws = (accumulate h ws + mask) % 2147483647) ∧
    (∀ h x y us vs, x % 2147483647 = y % 2147483647 →
      accumulate h (us ++ x :: vs) = accumulate h (us ++ y :: vs)) ∧
    (∀ context direction generation sequence line half,
      (counterBlock context direction generation sequence line half).extractLsb' 32 32 =
        BitVec.ofNat 32 sequence)

/-- A seal job: read-backs are kept until the last, which issues the write of the
whole head line with the tag over what they returned; the completed head-line write
seals the parcel, and publishes a notice; a downstream error gives a SEAL's parcel
back to FILLING, frees a notice's, and raises MEMORY_ERROR. (At the publication no
record has been taken, so none leaves; that every record with an ordinal of the notice is
marked is the model's choice, log 36.) The end of a SEAL while jobs wait starts the head
of the queue; the entry it leaves in a full queue is given to the deferred head, whose
job enters at the tail, else to the composer's waiting seal. -/
def Obligations.SealJobRuns : Prop :=
  (∀ (s : State) (r : InternalRequest) (rest : List Flight) (run : Running) (e e' : Window)
    (q q' : ParcelRecord) (j : Job) (js : List Job) (deferred : List (WindowIndex × Nat))
    (late : Option WaitingSeal),
    Quiet s → Oldest s .headWrite r rest → run.job.kind = .sealData →
    s.tag = { queue := j :: js, running := some run, deferred := deferred, waitingSeal := late } →
    s.window run.job.window = some e → s.parcel run.job.window run.job.parcel = some q →
    q.releasePending = false → s.window j.window = some e' → s.parcel j.window j.parcel = some q' →
    let b := ((s.landed r rest false).withoutJob).withParcel run.job.window run.job.parcel
      { q with state := .sealed }
    let starts := fun (x : State) (queue : List Job) (deferred : List (WindowIndex × Nat))
        (late : Option WaitingSeal) =>
      GoesTo s (.headLineWriteDone false)
        { x with tag :=
          { queue := queue, running := some (j.started q'), deferred := deferred,
            waitingSeal := late } }
        (j.reads e' q') []
    (deferred = [] → late = none → js.length ≤ 15 → starts b js [] none) ∧
    (∀ w p left, deferred = (w, p) :: left → js.length = 15 →
      starts (b.updateParcel w p fun x => { x with deferred := false })
        (js ++ [s.deferredJob w p]) left late) ∧
    (∀ x, deferred = [] → late = some x → js.length = 15 →
      starts
        { b.updateParcel x.window x.parcel fun y =>
            { y with state := .sealing, length := some x.length } with
          composer := { s.composer with phase := .sealing } }
        (js ++ [{ window := x.window, parcel := x.parcel, kind := .sealNotice,
                  orderPoint := s.path.nextSerial }]) [] none)) ∧
  ∀ (s : State) (r : InternalRequest) (rest : List Flight) (run : Running) (e : Window)
    (q : ParcelRecord) (i : SlotId) (n length : Nat) (c : Instr),
    Quiet s → JobRuns s run e q → q.releasePending = false → q.slot = some i →
    q.sequence = some n → q.length = some length →
    run.job.kind = .sealData ∨ run.job.kind = .sealNotice →
    let j := run.job
    let k := s.slot i
    let data := run.payload ++ s.returned r.address r.access
    let kind := if j.kind = .sealNotice then 2 else 1
    let keeps := fun (left : Nat) =>
      ({ s.landed r rest false with
        tag := { s.tag with
          running := some { run with payload := data, linesLeft := left } } } : State)
    let tag := tagBy k.hashKey k.trafficKey k.context.val 1 k.generation n data kind
      s.renewal.storeId length
    let headLine := leBytes 1 k.context.val ++ leBytes 1 kind ++ leBytes 2 k.generation ++
      leBytes 4 n ++ leBytes 4 s.renewal.storeId ++ leBytes 4 length ++ leBytes 4 tag ++
      leBytes 8 0 ++ leBytes 4 0x5A17C3E9
    (Oldest s .sealRead r rest →
      (2 ≤ run.linesLeft →
        GoesTo s (.sealReadbackDone false) (keeps (run.linesLeft - 1)) [] []) ∧
      (run.linesLeft ≤ 1 →
        GoesTo s (.sealReadbackDone false) (keeps 0)
          [{ purpose := .headWrite, ignored := false, address := e.base + 2048 * j.parcel,
             access := wholeLine headLine, orderPoint := s.path.nextSerial }] [])) ∧
    (Oldest s .headWrite r rest →
      let written := (s.landed r rest false).withoutJob.withParcel j.window j.parcel
        { q with state := .sealed }
      (j.kind = .sealData → GoesTo s (.headLineWriteDone false) written [] []) ∧
      (∀ notice, s.composer.notice = some notice → j.kind = .sealNotice →
        s.noticeWindow = some j.window → (∀ x ∈ s.fault.queue, x.hostTaken = false) →
        GoesTo s (.headLineWriteDone false)
          { written with
            fault := { s.fault with queue := marked s.fault.queue notice.ordinals .yes },
            composer := { s.composer with
              phase := .idle, notice := none,
              published := (s.composer.published + 1) % 4294967296,
              ring := if e.count ≤ s.composer.ring + 1 then 0 else s.composer.ring + 1 } } [] [])) ∧
    (Oldest s .sealRead r rest ∧ c = .sealReadbackDone true ∨
        Oldest s .headWrite r rest ∧ c = .headLineWriteDone true →
      let failed := (s.landed r rest true).withoutJob
      let event := parcelEvent .memoryError j (some k.context.val) (some k.generation) j.kind.code 0
      (j.kind = .sealData →
        GoesTo s c
          (failed.withParcel j.window j.parcel { q with state := .filling, length := none })
          [] [event]) ∧
      (∀ notice, s.composer.notice = some notice → j.kind = .sealNotice →
        GoesTo s c ((failed.withoutParcel j.window j.parcel q).noticeReturned notice) [] [event]))

/-- The head line of a check has returned: a failing check of R67 or R73 ends it
REJECTED and MALFORMED; a DATA parcel whose generation no slot holds ends REJECTED
with UNKNOWN_GENERATION; else the parcel has its length, a DATA parcel also the slot
found and its sequence, and the payload reads are issued. -/
def Obligations.HeadLinesAreChecked : Prop :=
  ∀ (s : State) (r : InternalRequest) (rest : List Flight) (run : Running) (e : Window)
    (q : ParcelRecord) (i : SlotId),
    Quiet s → JobRuns s run e q → q.releasePending = false →
    let j := run.job
    let h := headLineOf (s.returned r.address r.access)
    let b := s.landed r rest false
    let rejected := fun (q' : ParcelRecord) => b.withoutJob.withParcel j.window j.parcel
      { q' with state := .rejected }
    let reads := fun (x : State) (left : Nat) =>
      ({ x with tag := { s.tag with
        running := some { job := j, head := some h, payload := [], linesLeft := left } } } : State)
    (Oldest s .checkHead r rest →
      let reason :=
        if ¬(1 ≤ h.length ∧ h.length ≤ 2016) then some 1
        else if h.context ≠ e.context.val then some 2
        else if h.kind ≠ 1 then some 3
        else if h.station ≠ 0 then some 4
        else none
      (∀ x, reason = some x →
        GoesTo s (.checkHeadLineRead false) (rejected q) []
          [parcelEvent .malformed j (some e.context.val) none x 0]) ∧
      (reason = none → (∀ x, ¬Resolves s h.context h.generation x) →
        GoesTo s (.checkHeadLineRead false) (rejected { q with length := some h.length }) []
          [parcelEvent .unknownGeneration j (some e.context.val) none h.generation 0]) ∧
      (reason = none → (∀ x, Resolves s h.context h.generation x ↔ x = i) →
        GoesTo s (.checkHeadLineRead false)
          { reads (b.withParcel j.window j.parcel
              { q with length := some h.length, slot := some i, sequence := some h.sequence })
              ((h.length + 31) / 32) with
            keys := { s.keys with
              slots := s.keys.slots.set i
                { s.slot i with references := (s.slot i).references + 1 } } }
          (lineReads .checkPayload e j.parcel ((h.length + 31) / 32) j.orderPoint) [])) ∧
    (Oldest s .renewalHead r rest →
      let reason :=
        if h.length ≠ 64 then some 1
        else if 3 < h.context then some 2
        else if h.kind ≠ 3 then some 3
        else if h.station ≠ 0 then some 4
        else none
      (∀ x, reason = some x →
        GoesTo s (.renewalHeadLineRead false) (rejected q) []
          [parcelEvent .malformed j none none x 0]) ∧
      (reason = none →
        GoesTo s (.renewalHeadLineRead false)
          (reads (b.withParcel j.window j.parcel { q with length := some h.length }) 2)
          (lineReads .renewalPayload e j.parcel 2 j.orderPoint) []))

/-- A CHECK's payload has returned: lines are kept until the last; a tag that differs
ends it with TAG_MISMATCH; else the acceptance table decides: REPLAYED, STALE, or an
admission, which updates the acceptance record, restarts the link-silence watch,
clears its silent flag with LINK_RESUMED, and changes over to a staged head of mode
ON_PEER_USE, with what follows that changeover. -/
def Obligations.PayloadIsChecked : Prop :=
  ∀ (s : State) (r : InternalRequest) (rest : List Flight) (run : Running) (e : Window)
    (q : ParcelRecord) (h : HeadLine) (i : SlotId),
    Quiet s → Oldest s .checkPayload r rest → JobRuns s run e q → q.releasePending = false →
    run.head = some h → q.slot = some i → i ≠ 0 →
    let j := run.job
    let k := s.slot i
    let high := k.highMark
    let n := h.sequence
    let data := run.payload ++ s.returned r.address r.access
    let b := s.landed r rest false
    let tag := tagBy k.hashKey k.trafficKey h.context 2 h.generation n data 1 h.station h.length
    let ends := fun (kind : RecordKind) (detail : Nat) =>
      GoesTo s (.checkPayloadRead false)
        (b.withoutJob.withParcel j.window j.parcel { q with state := .rejected }) []
        [parcelEvent kind j (some e.context.val) (some k.generation) n detail]
    let link := s.link e.context
    let watched : Watch := if link.period = 0 then link else
      { period := link.period, silent := false,
        mark := { value := some (ahead s.time.tick link.period), latch := false } }
    let resumed : List FaultEvent := if link.period ≠ 0 ∧ link.silent = true then
      [{ kind := .linkResumed, context := some e.context.val, window := none, parcel := none,
         generation := none, detailA := 0, detailB := 0 }] else []
    let admits := fun (high' : Nat) (admitted : List Nat) =>
      let a : State :=
        { b.withoutJob.withParcel j.window j.parcel { q with state := .admitted } with
          keys := { s.keys with
            slots := s.keys.slots.set i { k with highMark := high', admitted := admitted } },
          time := { s.time with links := s.time.links.set e.context watched } }
      (k.state ≠ .staged ∨ k.mode ≠ .onPeerUse ∨ s.stagedHead k.context ≠ some i →
        GoesTo s (.checkPayloadRead false) a [] resumed) ∧
      (∀ changes, k.state = .staged → k.mode = .onPeerUse → OneEach s →
        s.stagedHead k.context = some i → Cascades s k.context changes →
        GoesTo s (.checkPayloadRead false) (a.changedAll changes) []
          (resumed ++ s.changedAllEvents changes))
    (2 ≤ run.linesLeft →
      GoesTo s (.checkPayloadRead false)
        { b with tag := { s.tag with
            running := some { run with payload := data, linesLeft := run.linesLeft - 1 } } } [] []) ∧
    (run.linesLeft ≤ 1 →
      (tag ≠ h.tag → ends .tagMismatch 0) ∧
      (tag = h.tag →
        (n = 0 → ends .stale high) ∧
        (high < n → admits n (n :: k.admitted.filter fun x => decide (n - 31 ≤ x))) ∧
        (1 ≤ n → high - 31 ≤ n → n ≤ high → n ∉ k.admitted → admits high (n :: k.admitted)) ∧
        (1 ≤ n → n ≤ high → n ∈ k.admitted → ends .replayed 0) ∧
        (1 ≤ n → n < high - 31 → n ∉ k.admitted → ends .stale high)))

/-- The payload of a CHECK_RENEWAL has returned: the first line is kept; a tag that
differs under h_W and s_W ends it with TAG_MISMATCH; else the parcel is ADMITTED and
joins the import list, and when it is alone there its import starts with two reads.
A downstream error ends any check REJECTED with MEMORY_ERROR. -/
def Obligations.RenewalIsAdmitted : Prop :=
  ∀ (s : State) (r : InternalRequest) (rest : List Flight) (run : Running) (e : Window)
    (q : ParcelRecord) (h : HeadLine) (p : Purpose) (c : Instr),
    Quiet s → JobRuns s run e q → q.releasePending = false →
    let j := run.job
    let data := run.payload ++ s.returned r.address r.access
    let b := s.landed r rest false
    (Oldest s .renewalPayload r rest → run.head = some h →
      let w := s.renewal.wrapKey
      let tag := tagBy (hashKeyOf w) w h.context 2 h.generation h.sequence data 3 h.station h.length
      let entry : ImportEntry :=
        { window := j.window, parcel := j.parcel, context := h.context,
          generation := h.generation, sequence := h.sequence }
      let admitted := b.withoutJob.withParcel j.window j.parcel { q with state := .admitted }
      (2 ≤ run.linesLeft →
        GoesTo s (.renewalPayloadRead false)
          { b with tag := { s.tag with
              running := some { run with payload := data, linesLeft := run.linesLeft - 1 } } } [] []) ∧
      (run.linesLeft ≤ 1 → tag ≠ h.tag →
        GoesTo s (.renewalPayloadRead false)
          (b.withoutJob.withParcel j.window j.parcel { q with state := .rejected }) []
          [parcelEvent .tagMismatch j (some h.context) (some h.generation) h.sequence 0]) ∧
      (run.linesLeft ≤ 1 → tag = h.tag → s.renewal.importing ≠ none →
        GoesTo s (.renewalPayloadRead false)
          { admitted with renewal := { s.renewal with
              importList := s.renewal.importList ++ [entry] } } [] []) ∧
      (run.linesLeft ≤ 1 → tag = h.tag → s.renewal.importing = none →
        s.renewal.importList = [] →
        GoesTo s (.renewalPayloadRead false)
          { admitted with renewal := { s.renewal with
              importList := [entry], importing := some { data := [], readsLeft := 2 } } }
          (lineReads .importRead e j.parcel 2 s.path.nextSerial) [])) ∧
    (Oldest s p r rest →
      (p, c) ∈ [(.checkHead, .checkHeadLineRead true), (.checkPayload, .checkPayloadRead true),
        (.renewalHead, .renewalHeadLineRead true), (.renewalPayload, .renewalPayloadRead true)] →
      GoesTo s c
        ((s.landed r rest true).withoutJob.withParcel j.window j.parcel
          { q with state := .rejected }) []
        [parcelEvent .memoryError j (some e.context.val)
          (q.slot.map fun i => (s.slot i).generation) j.kind.code 0])

/-- An import read has returned, for the only parcel of the import list: the first is
kept; an error ends the import with MEMORY_ERROR; after the second the seven checks
are made in their order, the first that fails refuses the renewal with its reason,
and a renewal that passes is staged in the lowest EMPTY slot with its clamped terms,
raises the generation floor and KEY_ACCEPTED. In mode AT_ONCE the context's other staged
generations are discarded and it changes over at once; in the other modes it changes
over when nothing else is staged and its mark is reached or the ACTIVE generation is
exhausted; what follows such a changeover follows. Either way the parcel goes FREE and
leaves the list. -/
def Obligations.RenewalIsImported : Prop :=
  ∀ (s : State) (r : InternalRequest) (rest : List Flight) (run : ImportRun) (entry : ImportEntry)
    (e : Window) (q : ParcelRecord) (c : Ctx) (mode : ActivationMode) (i : SlotId)
    (changes : List (Ctx × SlotId)),
    Quiet s → Oldest s .importRead r rest → s.renewal.importing = some run →
    s.renewal.importList = [entry] → s.window entry.window = some e →
    s.parcel entry.window entry.parcel = some q → q.slot = none → entry.context = c.val →
    let data := run.data ++ s.returned r.address r.access
    let b := s.landed r rest false
    let ended := fun (x : State) =>
      { x.withParcel entry.window entry.parcel ParcelRecord.blank with
        renewal := { s.renewal with importing := none, importList := [] } }
    let event := fun (kind : RecordKind) (x y : Nat) =>
      ([{ kind := kind, context := some c.val, window := some entry.window.val,
          parcel := some entry.parcel, generation := some entry.generation, detailA := x,
          detailB := y }] : List FaultEvent)
    (2 ≤ run.readsLeft →
      GoesTo s (.importReadDone false)
        { b with renewal := { s.renewal with
            importing := some { data := data, readsLeft := run.readsLeft - 1 } } } [] []) ∧
    GoesTo s (.importReadDone true)
      (ended ((s.landed r rest true).discard fun p => decide (p = .importRead))) []
      (event .memoryError 5 0) ∧
    (run.readsLeft ≤ 1 →
      let m := renewalRecordOf data
      let key := decipherBlock s.renewal.wrapKey m.wrapped2 ++
        decipherBlock s.renewal.wrapKey m.wrapped1
      let reason :=
        if m.context ≠ entry.context ∨ m.generation ≠ entry.generation then some 1
        else if 3 < m.mode then some 2
        else if m.generation ≤ (s.context c).floor then some 3
        else if m.budget = 0 then some 2
        else if firstWord (encipherBlock key 0) ≠ m.checkValue then some 4
        else if 2 ≤ (s.slotsIn c .staged).length then some 5
        else if (usableSlots.all fun i => decide ((s.slot i).state ≠ .empty)) = true then some 6
        else none
      (∀ x, reason = some x →
        GoesTo s (.importReadDone false) (ended b) [] (event .renewalRefused x 0)) ∧
      (reason = none → modeOf? m.mode = some mode →
        i ≠ 0 → (s.slot i).state = .empty → (∀ x, x ≠ 0 → x < i → (s.slot x).state ≠ .empty) →
        let now := s.time.tick
        let carried : Tick := BitVec.ofNat 32 m.activationMark
        let mark :=
          if mode ≠ .atMark then (0, false)
          else if reached now carried = true then (carried, true)
          else if (carried - now).toNat ≤ 1073741824 then (carried, false)
          else (ahead now 1073741824, false)
        let lifetime := if m.lifetime = 0 ∨ 1073741824 < m.lifetime then 1073741824 else m.lifetime
        let slot : KeySlot :=
          { KeySlot.blank with
            state := .staged, context := c, generation := m.generation, trafficKey := key,
            hashKey := hashKeyOf key, checkValue := m.checkValue, mode := mode,
            activationMark := mark.1, activationLatch := mark.2,
            budget := min 16777215 m.budget, nextSequence := 1, lifetime := lifetime }
        let staged : State :=
          { b with keys := { s.keys with
              slots := s.keys.slots.set i slot,
              contexts := s.keys.contexts.set c { s.context c with floor := m.generation } } }
        let accepted := event .keyAccepted m.checkValue i.val
        (mode ≠ .atOnce →
          (s.slotsIn c .staged ≠ [] ∧
              ∀ x ∈ s.slotsIn c .staged, (s.slot x).generation < m.generation) ∨
            s.slotsIn c .staged = [] ∧ mark.2 = false ∧ s.exhausted c = false →
          GoesTo s (.importReadDone false) (ended staged) [] accepted) ∧
        (mode ≠ .atOnce → mark.2 = true ∨ s.exhausted c = true → OneEach s →
          s.slotsIn c .staged = [] → Cascades staged c changes →
          GoesTo s (.importReadDone false) (ended (staged.changedAll changes)) []
            (accepted ++ staged.changedAllEvents changes)) ∧
        (mode = .atOnce → OneEach s →
          let alone : State :=
            { staged with keys := { staged.keys with
              slots := Vector.ofFn fun x =>
                if x ∈ s.slotsIn c .staged then (s.slot x).gone else staged.slot x } }
          Cascades alone c changes →
          GoesTo s (.importReadDone false) (ended (alone.changedAll changes)) []
            (accepted ++ alone.changedAllEvents changes))))

/-- A write of a notice image has completed: it is counted until the last, which
offers the seal: the job starts when the engine is free, and waits for room when the
queue is full; an error fails the notice, frees its parcel and raises MEMORY_ERROR. (That
every record with an ordinal of the notice returns to NO is the model's choice, log 36.) -/
def Obligations.NoticeImagesAreWritten : Prop :=
  ∀ (s : State) (r : InternalRequest) (rest : List Flight) (n : Notice) (w : WindowIndex)
    (e : Window) (q : ParcelRecord),
    Quiet s → Oldest s .noticeImage r rest → s.noticeWindow = some w → s.window w = some e →
    s.composer.notice = some n → s.parcel w n.parcel = some q →
    let b := s.landed r rest false
    let length := 32 * n.ordinals.length
    let counted := fun (left : Nat) (phase : ComposerPhase) =>
      { s.composer with phase := phase, notice := some { n with writesLeft := left } }
    let job : Job :=
      { window := w, parcel := n.parcel, kind := .sealNotice, orderPoint := s.path.nextSerial }
    (2 ≤ n.writesLeft →
      GoesTo s (.noticeImageWriteDone false)
        { b with composer := counted (n.writesLeft - 1) s.composer.phase } [] []) ∧
    (n.writesLeft ≤ 1 →
      (s.tag = { queue := [], running := none, deferred := [], waitingSeal := none } →
        GoesTo s (.noticeImageWriteDone false)
          { b.withParcel w n.parcel { q with state := .sealing, length := some length } with
            composer := counted 0 .sealing,
            tag := { s.tag with
              running := some { job := job, head := none, payload := [], linesLeft := n.ordinals.length } } }
          (lineReads .sealRead e n.parcel n.ordinals.length s.path.nextSerial) []) ∧
      (s.tag.queue.length < 16 → s.tag.running ≠ none → s.tag.deferred = [] →
        s.tag.waitingSeal = none →
        GoesTo s (.noticeImageWriteDone false)
          { b.withParcel w n.parcel { q with state := .sealing, length := some length } with
            composer := counted 0 .sealing,
            tag := { s.tag with queue := s.tag.queue ++ [job] } } [] []) ∧
      (s.tag.queue.length = 16 →
        GoesTo s (.noticeImageWriteDone false)
          { b with
            composer := counted 0 .awaitingRoom,
            tag := { s.tag with
              waitingSeal := some { window := w, parcel := n.parcel, length := length } } }
          [] [])) ∧
    GoesTo s (.noticeImageWriteDone true)
      ((((s.landed r rest true).discard fun p => decide (p = .noticeImage)).withoutParcel
        w n.parcel q).noticeReturned n) []
      [{ kind := .memoryError, context := some n.context.val, window := some w.val,
         parcel := some n.parcel, generation := q.slot.map fun i => (s.slot i).generation,
         detailA := 6, detailB := 0 }]
end

