-- ==== Sys2Proof/Laws/Memory.lean ====
section
/-! SUPPORT. Memory: every operation keeps the canonical form, and a write changes the bytes it names and no other. -/

namespace Sys2Proof.Machine

theorem wfFrom_mono {low low' : Nat} (h : low' ≤ low) :
    ∀ m : Memory, Memory.wfFrom low m = true → Memory.wfFrom low' m = true
  | [], _ => rfl
  | (a, b) :: rest, hm => by
    simp only [Memory.wfFrom, Bool.and_eq_true, decide_eq_true_eq] at hm ⊢
    exact ⟨⟨⟨by omega, hm.1.1.2⟩, hm.1.2⟩, hm.2⟩

theorem read_of_lt {low x : Nat} :
    ∀ m : Memory, Memory.wfFrom low m = true → x < low → Memory.read m x = unlistedByte
  | [], _, _ => rfl
  | (a, b) :: rest, hm, hx => by
    simp only [Memory.wfFrom, Bool.and_eq_true, decide_eq_true_eq] at hm
    have hne : x ≠ a := by omega
    simp only [Memory.read, hne, if_false]
    exact read_of_lt rest hm.2 (by omega)

theorem put_wfFrom {x : Nat} {v : Byte} (hx : x < memorySize) :
    ∀ (m : Memory) (low : Nat), Memory.wfFrom low m = true → low ≤ x →
      Memory.wfFrom low (Memory.put m x v) = true
  | [], low, _, hlow => by
    by_cases hv : v = unlistedByte <;> simp [Memory.put, hv, Memory.wfFrom, hx, hlow]
  | (a, b) :: rest, low, hm, hlow => by
    have h := hm
    simp only [Memory.wfFrom, Bool.and_eq_true, decide_eq_true_eq] at h
    by_cases h1 : x < a
    · by_cases hv : v = unlistedByte
      · simpa [Memory.put, h1, hv] using hm
      · simp [Memory.put, h1, hv, Memory.wfFrom, hx, hlow, h.1.1.2, h.1.2, h.2]
    · by_cases h2 : x = a
      · by_cases hv : v = unlistedByte
        · simpa [Memory.put, h1, h2, hv] using wfFrom_mono (by omega : low ≤ a + 1) rest h.2
        · simp [Memory.put, h2, hv, Memory.wfFrom, h.1.1.1, h.1.1.2, h.2]
      · have := put_wfFrom (v := v) hx rest (a + 1) h.2 (by omega)
        simp [Memory.put, h1, h2, Memory.wfFrom, h.1.1.1, h.1.1.2, h.1.2, this]

theorem read_put {x y : Nat} {v : Byte} :
    ∀ (m : Memory) (low : Nat), Memory.wfFrom low m = true →
      Memory.read (Memory.put m x v) y = if y = x then v else Memory.read m y
  | [], _, _ => by
    by_cases hv : v = unlistedByte <;> by_cases hy : y = x <;> simp [Memory.put, hv, hy, Memory.read]
  | (a, b) :: rest, low, hm => by
    have h := hm
    simp only [Memory.wfFrom, Bool.and_eq_true, decide_eq_true_eq] at h
    by_cases h1 : x < a
    · by_cases hv : v = unlistedByte
      · by_cases hy : y = x
        · subst hy
          have hya : y ≠ a := by omega
          have := read_of_lt rest h.2 (by omega : y < a + 1)
          simp [Memory.put, h1, hv, Memory.read, hya, this]
        · simp [Memory.put, h1, hv, hy]
      · by_cases hy : y = x <;> simp [Memory.put, h1, hv, Memory.read, hy]
    · by_cases h2 : x = a
      · subst h2
        by_cases hv : v = unlistedByte
        · by_cases hy : y = x
          · subst hy
            have := read_of_lt rest h.2 (by omega : y < y + 1)
            simp [Memory.put, hv, this]
          · simp [Memory.put, hv, hy, Memory.read]
        · by_cases hy : y = x <;> simp [Memory.put, hv, Memory.read, hy]
      · have := read_put (x := x) (y := y) (v := v) rest (a + 1) h.2
        by_cases hya : y = a
        · have hyx : y ≠ x := by omega
          simp [Memory.put, h1, h2, Memory.read, hya, Ne.symm h2]
        · simp [Memory.put, h1, h2, Memory.read, hya, this]

theorem write_wf (m : Memory) (a : Nat) (v : Byte) (h : m.wf = true) :
    (Memory.write m a v).wf = true :=
  put_wfFrom (Nat.mod_lt _ (by decide)) m 0 h (Nat.zero_le _)

theorem read_write (m : Memory) (a : Nat) (v : Byte) (h : m.wf = true) (y : Nat) :
    Memory.read (Memory.write m a v) y = if y = a % memorySize then v else Memory.read m y :=
  read_put m 0 h

theorem store_wf : ∀ (bytes : List (Option Byte)) (m : Memory) (a : Nat), m.wf = true →
    (Memory.store m a bytes).wf = true
  | [], _, _, h => h
  | none :: rest, m, a, h => store_wf rest m (a + 1) h
  | some v :: rest, m, a, h => store_wf rest _ (a + 1) (write_wf m a v h)

theorem scramble_wf (n : Nat) : ∀ (bytes : List (Option Byte)) (m : Memory) (a : Nat),
    m.wf = true → (Memory.scramble n m a bytes).wf = true
  | [], _, _, h => h
  | none :: rest, m, a, h => scramble_wf n rest m (a + 1) h
  | some _ :: rest, m, a, h => scramble_wf n rest _ (a + 1) (write_wf m a _ h)

theorem outside_tail {y a n : Nat} (h : Outside y a (n + 1)) : Outside y (a + 1) n := by
  intro k hk
  have := h (k + 1) (by omega)
  rwa [show a + (k + 1) = a + 1 + k from by omega] at this

theorem read_store_outside {y : Nat} : ∀ (bytes : List (Option Byte)) (m : Memory) (a : Nat),
    m.wf = true → Outside y a bytes.length → Memory.read (Memory.store m a bytes) y = Memory.read m y
  | [], _, _, _, _ => rfl
  | none :: rest, m, a, h, ho => read_store_outside rest m (a + 1) h (outside_tail ho)
  | some v :: rest, m, a, h, ho => by
    have h0 : y ≠ a % memorySize := by simpa using ho 0 (by simp)
    show Memory.read (Memory.store (Memory.write m a v) (a + 1) rest) y = _
    rw [read_store_outside rest _ (a + 1) (write_wf m a v h) (outside_tail ho), read_write m a v h]
    simp [h0]

theorem read_scramble_outside {y : Nat} (n : Nat) :
    ∀ (bytes : List (Option Byte)) (m : Memory) (a : Nat), m.wf = true →
      Outside y a bytes.length → Memory.read (Memory.scramble n m a bytes) y = Memory.read m y
  | [], _, _, _, _ => rfl
  | none :: rest, m, a, h, ho => read_scramble_outside n rest m (a + 1) h (outside_tail ho)
  | some _ :: rest, m, a, h, ho => by
    have h0 : y ≠ a % memorySize := by simpa using ho 0 (by simp)
    show Memory.read (Memory.scramble n (Memory.write m a _) (a + 1) rest) y = _
    rw [read_scramble_outside n rest _ (a + 1) (write_wf m a _ h) (outside_tail ho),
      read_write m a _ h]
    simp [h0]

theorem read_store_inside : ∀ (bytes : List (Option Byte)) (m : Memory) (a k : Nat) (v : Byte),
    m.wf = true → a + bytes.length ≤ memorySize → bytes[k]? = some (some v) →
      Memory.read (Memory.store m a bytes) (a + k) = v
  | [], _, _, _, _, _, _, hk => by simp at hk
  | none :: rest, m, a, 0, _, _, _, hk => by simp at hk
  | none :: rest, m, a, k + 1, v, h, hb, hk => by
    have := read_store_inside rest m (a + 1) k v h (by simp at hb; omega) (by simpa using hk)
    rwa [show a + 1 + k = a + (k + 1) from by omega] at this
  | some u :: rest, m, a, 0, v, h, hb, hk => by
    simp only [List.length_cons] at hb
    have hu : u = v := by simpa using hk
    have ho : Outside a (a + 1) rest.length := by
      intro k hk'
      rw [Nat.mod_eq_of_lt (by omega)]
      omega
    show Memory.read (Memory.store (Memory.write m a u) (a + 1) rest) a = v
    rw [read_store_outside rest _ (a + 1) (write_wf m a u h) ho, read_write m a u h,
      Nat.mod_eq_of_lt (by omega)]
    simp [hu]
  | some u :: rest, m, a, k + 1, v, h, hb, hk => by
    have := read_store_inside rest (Memory.write m a u) (a + 1) k v (write_wf m a u h)
      (by simp at hb; omega) (by simpa using hk)
    rwa [show a + 1 + k = a + (k + 1) from by omega] at this

/-- A completed access keeps the canonical form. -/
theorem complete_wf (s : State) (a : Nat) (x : Access) (e : Bool) (h : s.mem.wf = true) :
    (s.complete a x e).mem.wf = true := by
  unfold State.complete
  split
  · exact h
  · split
    · exact scramble_wf _ _ _ _ h
    · exact store_wf _ _ _ h

/-- A completed access changes no byte outside those it names. -/
theorem complete_outside (s : State) (a : Nat) (x : Access) (e : Bool) (y : Nat)
    (h : s.mem.wf = true) (ho : Outside y a x.count) :
    Memory.read (s.complete a x e).mem y = Memory.read s.mem y := by
  unfold State.complete
  split
  · rfl
  · split
    · exact read_scramble_outside _ _ _ _ h ho
    · exact read_store_outside _ _ _ h ho

/-- A completed read changes nothing. -/
theorem complete_read (s : State) (a n : Nat) (e : Bool) : s.complete a (.read n) e = s :=
  rfl

/-- A completed access changes memory and the count of failed writes only. -/
theorem complete_eq (s : State) (a : Nat) (x : Access) (e : Bool) :
    s.complete a x e =
      { s with mem := (s.complete a x e).mem, freeCount := (s.complete a x e).freeCount } := by
  unfold State.complete
  split
  · rfl
  · split <;> rfl

end Sys2Proof.Machine
end

