-- ==== Sys2Proof/Laws/State.lean ====
section
/-! SUPPORT. What each named update leaves as it was: one lemma for each update and field, true by rfl. -/

namespace Sys2Proof.Machine

@[simp] theorem setWindow_pending (s : State) (w : WindowIndex) (e : Option Window) :
    (s.setWindow w e).pending = s.pending := rfl
@[simp] theorem setWindow_mode (s : State) (w : WindowIndex) (e : Option Window) :
    (s.setWindow w e).mode = s.mode := rfl
@[simp] theorem setWindow_mem (s : State) (w : WindowIndex) (e : Option Window) :
    (s.setWindow w e).mem = s.mem := rfl
@[simp] theorem setWindow_path (s : State) (w : WindowIndex) (e : Option Window) :
    (s.setWindow w e).path = s.path := rfl
@[simp] theorem setWindow_tag (s : State) (w : WindowIndex) (e : Option Window) :
    (s.setWindow w e).tag = s.tag := rfl
@[simp] theorem setWindow_keys (s : State) (w : WindowIndex) (e : Option Window) :
    (s.setWindow w e).keys = s.keys := rfl
@[simp] theorem setWindow_fuses (s : State) (w : WindowIndex) (e : Option Window) :
    (s.setWindow w e).fuses = s.fuses := rfl
@[simp] theorem setWindow_renewal (s : State) (w : WindowIndex) (e : Option Window) :
    (s.setWindow w e).renewal = s.renewal := rfl
@[simp] theorem setWindow_time (s : State) (w : WindowIndex) (e : Option Window) :
    (s.setWindow w e).time = s.time := rfl
@[simp] theorem setWindow_fault (s : State) (w : WindowIndex) (e : Option Window) :
    (s.setWindow w e).fault = s.fault := rfl
@[simp] theorem setWindow_composer (s : State) (w : WindowIndex) (e : Option Window) :
    (s.setWindow w e).composer = s.composer := rfl
@[simp] theorem setWindow_command (s : State) (w : WindowIndex) (e : Option Window) :
    (s.setWindow w e).command = s.command := rfl
@[simp] theorem setWindow_transit (s : State) (w : WindowIndex) (e : Option Window) :
    (s.setWindow w e).transit = s.transit := rfl
@[simp] theorem setWindow_responses (s : State) (w : WindowIndex) (e : Option Window) :
    (s.setWindow w e).responses = s.responses := rfl
@[simp] theorem setWindow_freeCount (s : State) (w : WindowIndex) (e : Option Window) :
    (s.setWindow w e).freeCount = s.freeCount := rfl

@[simp] theorem updateContext_pending (s : State) (c : Ctx) (f : ContextRow → ContextRow) :
    (s.updateContext c f).pending = s.pending := rfl
@[simp] theorem updateContext_mode (s : State) (c : Ctx) (f : ContextRow → ContextRow) :
    (s.updateContext c f).mode = s.mode := rfl
@[simp] theorem updateContext_mem (s : State) (c : Ctx) (f : ContextRow → ContextRow) :
    (s.updateContext c f).mem = s.mem := rfl
@[simp] theorem updateContext_windows (s : State) (c : Ctx) (f : ContextRow → ContextRow) :
    (s.updateContext c f).windows = s.windows := rfl
@[simp] theorem updateContext_path (s : State) (c : Ctx) (f : ContextRow → ContextRow) :
    (s.updateContext c f).path = s.path := rfl
@[simp] theorem updateContext_tag (s : State) (c : Ctx) (f : ContextRow → ContextRow) :
    (s.updateContext c f).tag = s.tag := rfl
@[simp] theorem updateContext_fuses (s : State) (c : Ctx) (f : ContextRow → ContextRow) :
    (s.updateContext c f).fuses = s.fuses := rfl
@[simp] theorem updateContext_renewal (s : State) (c : Ctx) (f : ContextRow → ContextRow) :
    (s.updateContext c f).renewal = s.renewal := rfl
@[simp] theorem updateContext_time (s : State) (c : Ctx) (f : ContextRow → ContextRow) :
    (s.updateContext c f).time = s.time := rfl
@[simp] theorem updateContext_fault (s : State) (c : Ctx) (f : ContextRow → ContextRow) :
    (s.updateContext c f).fault = s.fault := rfl
@[simp] theorem updateContext_composer (s : State) (c : Ctx) (f : ContextRow → ContextRow) :
    (s.updateContext c f).composer = s.composer := rfl
@[simp] theorem updateContext_command (s : State) (c : Ctx) (f : ContextRow → ContextRow) :
    (s.updateContext c f).command = s.command := rfl
@[simp] theorem updateContext_transit (s : State) (c : Ctx) (f : ContextRow → ContextRow) :
    (s.updateContext c f).transit = s.transit := rfl
@[simp] theorem updateContext_responses (s : State) (c : Ctx) (f : ContextRow → ContextRow) :
    (s.updateContext c f).responses = s.responses := rfl
@[simp] theorem updateContext_freeCount (s : State) (c : Ctx) (f : ContextRow → ContextRow) :
    (s.updateContext c f).freeCount = s.freeCount := rfl

@[simp] theorem raise_pending (s : State) (e : FaultEvent) : (s.raise e).pending = s.pending := rfl
@[simp] theorem raise_mode (s : State) (e : FaultEvent) : (s.raise e).mode = s.mode := rfl
@[simp] theorem raise_mem (s : State) (e : FaultEvent) : (s.raise e).mem = s.mem := rfl
@[simp] theorem raise_windows (s : State) (e : FaultEvent) : (s.raise e).windows = s.windows := rfl
@[simp] theorem raise_path (s : State) (e : FaultEvent) : (s.raise e).path = s.path := rfl
@[simp] theorem raise_tag (s : State) (e : FaultEvent) : (s.raise e).tag = s.tag := rfl
@[simp] theorem raise_keys (s : State) (e : FaultEvent) : (s.raise e).keys = s.keys := rfl
@[simp] theorem raise_fuses (s : State) (e : FaultEvent) : (s.raise e).fuses = s.fuses := rfl
@[simp] theorem raise_renewal (s : State) (e : FaultEvent) : (s.raise e).renewal = s.renewal := rfl
@[simp] theorem raise_time (s : State) (e : FaultEvent) : (s.raise e).time = s.time := rfl
@[simp] theorem raise_fault (s : State) (e : FaultEvent) : (s.raise e).fault = s.fault := rfl
@[simp] theorem raise_composer (s : State) (e : FaultEvent) :
    (s.raise e).composer = s.composer := rfl
@[simp] theorem raise_command (s : State) (e : FaultEvent) : (s.raise e).command = s.command := rfl
@[simp] theorem raise_responses (s : State) (e : FaultEvent) :
    (s.raise e).responses = s.responses := rfl
@[simp] theorem raise_freeCount (s : State) (e : FaultEvent) :
    (s.raise e).freeCount = s.freeCount := rfl

@[simp] theorem reportRefusal_pending (s : State) (x : Fin 9) (y : RefusalReason) (z : Option Nat) :
    (s.reportRefusal x y z).pending = s.pending := rfl
@[simp] theorem reportRefusal_mode (s : State) (x : Fin 9) (y : RefusalReason) (z : Option Nat) :
    (s.reportRefusal x y z).mode = s.mode := rfl
@[simp] theorem reportRefusal_mem (s : State) (x : Fin 9) (y : RefusalReason) (z : Option Nat) :
    (s.reportRefusal x y z).mem = s.mem := rfl
@[simp] theorem reportRefusal_windows (s : State) (x : Fin 9) (y : RefusalReason) (z : Option Nat) :
    (s.reportRefusal x y z).windows = s.windows := rfl
@[simp] theorem reportRefusal_path (s : State) (x : Fin 9) (y : RefusalReason) (z : Option Nat) :
    (s.reportRefusal x y z).path = s.path := rfl
@[simp] theorem reportRefusal_tag (s : State) (x : Fin 9) (y : RefusalReason) (z : Option Nat) :
    (s.reportRefusal x y z).tag = s.tag := rfl
@[simp] theorem reportRefusal_keys (s : State) (x : Fin 9) (y : RefusalReason) (z : Option Nat) :
    (s.reportRefusal x y z).keys = s.keys := rfl
@[simp] theorem reportRefusal_fuses (s : State) (x : Fin 9) (y : RefusalReason) (z : Option Nat) :
    (s.reportRefusal x y z).fuses = s.fuses := rfl
@[simp] theorem reportRefusal_renewal (s : State) (x : Fin 9) (y : RefusalReason) (z : Option Nat) :
    (s.reportRefusal x y z).renewal = s.renewal := rfl
@[simp] theorem reportRefusal_time (s : State) (x : Fin 9) (y : RefusalReason) (z : Option Nat) :
    (s.reportRefusal x y z).time = s.time := rfl
@[simp] theorem reportRefusal_fault (s : State) (x : Fin 9) (y : RefusalReason) (z : Option Nat) :
    (s.reportRefusal x y z).fault = s.fault := rfl
@[simp] theorem reportRefusal_composer (s : State) (x : Fin 9) (y : RefusalReason) (z : Option Nat) :
    (s.reportRefusal x y z).composer = s.composer := rfl
@[simp] theorem reportRefusal_command (s : State) (x : Fin 9) (y : RefusalReason) (z : Option Nat) :
    (s.reportRefusal x y z).command = s.command := rfl
@[simp] theorem reportRefusal_responses (s : State) (x : Fin 9) (y : RefusalReason) (z : Option Nat) :
    (s.reportRefusal x y z).responses = s.responses := rfl
@[simp] theorem reportRefusal_freeCount (s : State) (x : Fin 9) (y : RefusalReason) (z : Option Nat) :
    (s.reportRefusal x y z).freeCount = s.freeCount := rfl

@[simp] theorem noteExamination_pending (s : State) : (s.noteExamination).pending = s.pending := rfl
@[simp] theorem noteExamination_mode (s : State) : (s.noteExamination).mode = s.mode := rfl
@[simp] theorem noteExamination_mem (s : State) : (s.noteExamination).mem = s.mem := rfl
@[simp] theorem noteExamination_windows (s : State) : (s.noteExamination).windows = s.windows := rfl
@[simp] theorem noteExamination_path (s : State) : (s.noteExamination).path = s.path := rfl
@[simp] theorem noteExamination_tag (s : State) : (s.noteExamination).tag = s.tag := rfl
@[simp] theorem noteExamination_keys (s : State) : (s.noteExamination).keys = s.keys := rfl
@[simp] theorem noteExamination_fuses (s : State) : (s.noteExamination).fuses = s.fuses := rfl
@[simp] theorem noteExamination_renewal (s : State) : (s.noteExamination).renewal = s.renewal := rfl
@[simp] theorem noteExamination_time (s : State) : (s.noteExamination).time = s.time := rfl
@[simp] theorem noteExamination_fault (s : State) : (s.noteExamination).fault = s.fault := rfl
@[simp] theorem noteExamination_composer (s : State) :
    (s.noteExamination).composer = s.composer := rfl
@[simp] theorem noteExamination_command (s : State) : (s.noteExamination).command = s.command := rfl
@[simp] theorem noteExamination_responses (s : State) :
    (s.noteExamination).responses = s.responses := rfl
@[simp] theorem noteExamination_freeCount (s : State) :
    (s.noteExamination).freeCount = s.freeCount := rfl

@[simp] theorem want_pending (s : State) (x : Purpose) (a : Nat) (y : Access) (o : Nat) :
    (s.want x a y o).pending = s.pending := rfl
@[simp] theorem want_mode (s : State) (x : Purpose) (a : Nat) (y : Access) (o : Nat) :
    (s.want x a y o).mode = s.mode := rfl
@[simp] theorem want_mem (s : State) (x : Purpose) (a : Nat) (y : Access) (o : Nat) :
    (s.want x a y o).mem = s.mem := rfl
@[simp] theorem want_windows (s : State) (x : Purpose) (a : Nat) (y : Access) (o : Nat) :
    (s.want x a y o).windows = s.windows := rfl
@[simp] theorem want_tag (s : State) (x : Purpose) (a : Nat) (y : Access) (o : Nat) :
    (s.want x a y o).tag = s.tag := rfl
@[simp] theorem want_keys (s : State) (x : Purpose) (a : Nat) (y : Access) (o : Nat) :
    (s.want x a y o).keys = s.keys := rfl
@[simp] theorem want_fuses (s : State) (x : Purpose) (a : Nat) (y : Access) (o : Nat) :
    (s.want x a y o).fuses = s.fuses := rfl
@[simp] theorem want_renewal (s : State) (x : Purpose) (a : Nat) (y : Access) (o : Nat) :
    (s.want x a y o).renewal = s.renewal := rfl
@[simp] theorem want_time (s : State) (x : Purpose) (a : Nat) (y : Access) (o : Nat) :
    (s.want x a y o).time = s.time := rfl
@[simp] theorem want_fault (s : State) (x : Purpose) (a : Nat) (y : Access) (o : Nat) :
    (s.want x a y o).fault = s.fault := rfl
@[simp] theorem want_composer (s : State) (x : Purpose) (a : Nat) (y : Access) (o : Nat) :
    (s.want x a y o).composer = s.composer := rfl
@[simp] theorem want_command (s : State) (x : Purpose) (a : Nat) (y : Access) (o : Nat) :
    (s.want x a y o).command = s.command := rfl
@[simp] theorem want_transit (s : State) (x : Purpose) (a : Nat) (y : Access) (o : Nat) :
    (s.want x a y o).transit = s.transit := rfl
@[simp] theorem want_responses (s : State) (x : Purpose) (a : Nat) (y : Access) (o : Nat) :
    (s.want x a y o).responses = s.responses := rfl
@[simp] theorem want_freeCount (s : State) (x : Purpose) (a : Nat) (y : Access) (o : Nat) :
    (s.want x a y o).freeCount = s.freeCount := rfl

@[simp] theorem wantAll_pending (s : State) (x : List InternalRequest) :
    (s.wantAll x).pending = s.pending := rfl
@[simp] theorem wantAll_mode (s : State) (x : List InternalRequest) :
    (s.wantAll x).mode = s.mode := rfl
@[simp] theorem wantAll_mem (s : State) (x : List InternalRequest) :
    (s.wantAll x).mem = s.mem := rfl
@[simp] theorem wantAll_windows (s : State) (x : List InternalRequest) :
    (s.wantAll x).windows = s.windows := rfl
@[simp] theorem wantAll_tag (s : State) (x : List InternalRequest) :
    (s.wantAll x).tag = s.tag := rfl
@[simp] theorem wantAll_keys (s : State) (x : List InternalRequest) :
    (s.wantAll x).keys = s.keys := rfl
@[simp] theorem wantAll_fuses (s : State) (x : List InternalRequest) :
    (s.wantAll x).fuses = s.fuses := rfl
@[simp] theorem wantAll_renewal (s : State) (x : List InternalRequest) :
    (s.wantAll x).renewal = s.renewal := rfl
@[simp] theorem wantAll_time (s : State) (x : List InternalRequest) :
    (s.wantAll x).time = s.time := rfl
@[simp] theorem wantAll_fault (s : State) (x : List InternalRequest) :
    (s.wantAll x).fault = s.fault := rfl
@[simp] theorem wantAll_composer (s : State) (x : List InternalRequest) :
    (s.wantAll x).composer = s.composer := rfl
@[simp] theorem wantAll_command (s : State) (x : List InternalRequest) :
    (s.wantAll x).command = s.command := rfl
@[simp] theorem wantAll_transit (s : State) (x : List InternalRequest) :
    (s.wantAll x).transit = s.transit := rfl
@[simp] theorem wantAll_responses (s : State) (x : List InternalRequest) :
    (s.wantAll x).responses = s.responses := rfl
@[simp] theorem wantAll_freeCount (s : State) (x : List InternalRequest) :
    (s.wantAll x).freeCount = s.freeCount := rfl

@[simp] theorem discard_pending (s : State) (x : Purpose → Bool) :
    (s.discard x).pending = s.pending := rfl
@[simp] theorem discard_mode (s : State) (x : Purpose → Bool) : (s.discard x).mode = s.mode := rfl
@[simp] theorem discard_mem (s : State) (x : Purpose → Bool) : (s.discard x).mem = s.mem := rfl
@[simp] theorem discard_windows (s : State) (x : Purpose → Bool) :
    (s.discard x).windows = s.windows := rfl
@[simp] theorem discard_tag (s : State) (x : Purpose → Bool) : (s.discard x).tag = s.tag := rfl
@[simp] theorem discard_keys (s : State) (x : Purpose → Bool) : (s.discard x).keys = s.keys := rfl
@[simp] theorem discard_fuses (s : State) (x : Purpose → Bool) :
    (s.discard x).fuses = s.fuses := rfl
@[simp] theorem discard_renewal (s : State) (x : Purpose → Bool) :
    (s.discard x).renewal = s.renewal := rfl
@[simp] theorem discard_time (s : State) (x : Purpose → Bool) : (s.discard x).time = s.time := rfl
@[simp] theorem discard_fault (s : State) (x : Purpose → Bool) :
    (s.discard x).fault = s.fault := rfl
@[simp] theorem discard_composer (s : State) (x : Purpose → Bool) :
    (s.discard x).composer = s.composer := rfl
@[simp] theorem discard_command (s : State) (x : Purpose → Bool) :
    (s.discard x).command = s.command := rfl
@[simp] theorem discard_transit (s : State) (x : Purpose → Bool) :
    (s.discard x).transit = s.transit := rfl
@[simp] theorem discard_responses (s : State) (x : Purpose → Bool) :
    (s.discard x).responses = s.responses := rfl
@[simp] theorem discard_freeCount (s : State) (x : Purpose → Bool) :
    (s.discard x).freeCount = s.freeCount := rfl

@[simp] theorem setGather_pending (s : State) : (s.setGather).pending = s.pending := rfl
@[simp] theorem setGather_mode (s : State) : (s.setGather).mode = s.mode := rfl
@[simp] theorem setGather_mem (s : State) : (s.setGather).mem = s.mem := rfl
@[simp] theorem setGather_windows (s : State) : (s.setGather).windows = s.windows := rfl
@[simp] theorem setGather_path (s : State) : (s.setGather).path = s.path := rfl
@[simp] theorem setGather_tag (s : State) : (s.setGather).tag = s.tag := rfl
@[simp] theorem setGather_keys (s : State) : (s.setGather).keys = s.keys := rfl
@[simp] theorem setGather_fuses (s : State) : (s.setGather).fuses = s.fuses := rfl
@[simp] theorem setGather_renewal (s : State) : (s.setGather).renewal = s.renewal := rfl
@[simp] theorem setGather_time (s : State) : (s.setGather).time = s.time := rfl
@[simp] theorem setGather_fault (s : State) : (s.setGather).fault = s.fault := rfl
@[simp] theorem setGather_command (s : State) : (s.setGather).command = s.command := rfl
@[simp] theorem setGather_transit (s : State) : (s.setGather).transit = s.transit := rfl
@[simp] theorem setGather_responses (s : State) : (s.setGather).responses = s.responses := rfl
@[simp] theorem setGather_freeCount (s : State) : (s.setGather).freeCount = s.freeCount := rfl

@[simp] theorem countersChanged_pending (s : State) : (s.countersChanged).pending = s.pending := rfl
@[simp] theorem countersChanged_mode (s : State) : (s.countersChanged).mode = s.mode := rfl
@[simp] theorem countersChanged_mem (s : State) : (s.countersChanged).mem = s.mem := rfl
@[simp] theorem countersChanged_windows (s : State) : (s.countersChanged).windows = s.windows := rfl
@[simp] theorem countersChanged_path (s : State) : (s.countersChanged).path = s.path := rfl
@[simp] theorem countersChanged_tag (s : State) : (s.countersChanged).tag = s.tag := rfl
@[simp] theorem countersChanged_keys (s : State) : (s.countersChanged).keys = s.keys := rfl
@[simp] theorem countersChanged_fuses (s : State) : (s.countersChanged).fuses = s.fuses := rfl
@[simp] theorem countersChanged_renewal (s : State) : (s.countersChanged).renewal = s.renewal := rfl
@[simp] theorem countersChanged_time (s : State) : (s.countersChanged).time = s.time := rfl
@[simp] theorem countersChanged_composer (s : State) :
    (s.countersChanged).composer = s.composer := rfl
@[simp] theorem countersChanged_command (s : State) : (s.countersChanged).command = s.command := rfl
@[simp] theorem countersChanged_transit (s : State) : (s.countersChanged).transit = s.transit := rfl
@[simp] theorem countersChanged_responses (s : State) :
    (s.countersChanged).responses = s.responses := rfl
@[simp] theorem countersChanged_freeCount (s : State) :
    (s.countersChanged).freeCount = s.freeCount := rfl

@[simp] theorem startPosting_pending (s : State) : (s.startPosting).pending = s.pending := rfl
@[simp] theorem startPosting_mode (s : State) : (s.startPosting).mode = s.mode := rfl
@[simp] theorem startPosting_mem (s : State) : (s.startPosting).mem = s.mem := rfl
@[simp] theorem startPosting_windows (s : State) : (s.startPosting).windows = s.windows := rfl
@[simp] theorem startPosting_path (s : State) : (s.startPosting).path = s.path := rfl
@[simp] theorem startPosting_tag (s : State) : (s.startPosting).tag = s.tag := rfl
@[simp] theorem startPosting_keys (s : State) : (s.startPosting).keys = s.keys := rfl
@[simp] theorem startPosting_fuses (s : State) : (s.startPosting).fuses = s.fuses := rfl
@[simp] theorem startPosting_renewal (s : State) : (s.startPosting).renewal = s.renewal := rfl
@[simp] theorem startPosting_time (s : State) : (s.startPosting).time = s.time := rfl
@[simp] theorem startPosting_composer (s : State) : (s.startPosting).composer = s.composer := rfl
@[simp] theorem startPosting_command (s : State) : (s.startPosting).command = s.command := rfl
@[simp] theorem startPosting_transit (s : State) : (s.startPosting).transit = s.transit := rfl
@[simp] theorem startPosting_responses (s : State) : (s.startPosting).responses = s.responses := rfl
@[simp] theorem startPosting_freeCount (s : State) : (s.startPosting).freeCount = s.freeCount := rfl

@[simp] theorem evaluateAttn_pending (s : State) : (s.evaluateAttn).pending = s.pending := rfl
@[simp] theorem evaluateAttn_mode (s : State) : (s.evaluateAttn).mode = s.mode := rfl
@[simp] theorem evaluateAttn_mem (s : State) : (s.evaluateAttn).mem = s.mem := rfl
@[simp] theorem evaluateAttn_windows (s : State) : (s.evaluateAttn).windows = s.windows := rfl
@[simp] theorem evaluateAttn_path (s : State) : (s.evaluateAttn).path = s.path := rfl
@[simp] theorem evaluateAttn_tag (s : State) : (s.evaluateAttn).tag = s.tag := rfl
@[simp] theorem evaluateAttn_keys (s : State) : (s.evaluateAttn).keys = s.keys := rfl
@[simp] theorem evaluateAttn_fuses (s : State) : (s.evaluateAttn).fuses = s.fuses := rfl
@[simp] theorem evaluateAttn_renewal (s : State) : (s.evaluateAttn).renewal = s.renewal := rfl
@[simp] theorem evaluateAttn_time (s : State) : (s.evaluateAttn).time = s.time := rfl
@[simp] theorem evaluateAttn_composer (s : State) : (s.evaluateAttn).composer = s.composer := rfl
@[simp] theorem evaluateAttn_command (s : State) : (s.evaluateAttn).command = s.command := rfl
@[simp] theorem evaluateAttn_transit (s : State) : (s.evaluateAttn).transit = s.transit := rfl
@[simp] theorem evaluateAttn_responses (s : State) : (s.evaluateAttn).responses = s.responses := rfl
@[simp] theorem evaluateAttn_freeCount (s : State) : (s.evaluateAttn).freeCount = s.freeCount := rfl

@[simp] theorem loseEvent_pending (s : State) (e : FaultEvent) :
    (s.loseEvent e).pending = s.pending := rfl
@[simp] theorem loseEvent_mode (s : State) (e : FaultEvent) : (s.loseEvent e).mode = s.mode := rfl
@[simp] theorem loseEvent_mem (s : State) (e : FaultEvent) : (s.loseEvent e).mem = s.mem := rfl
@[simp] theorem loseEvent_windows (s : State) (e : FaultEvent) :
    (s.loseEvent e).windows = s.windows := rfl
@[simp] theorem loseEvent_path (s : State) (e : FaultEvent) : (s.loseEvent e).path = s.path := rfl
@[simp] theorem loseEvent_tag (s : State) (e : FaultEvent) : (s.loseEvent e).tag = s.tag := rfl
@[simp] theorem loseEvent_keys (s : State) (e : FaultEvent) : (s.loseEvent e).keys = s.keys := rfl
@[simp] theorem loseEvent_fuses (s : State) (e : FaultEvent) :
    (s.loseEvent e).fuses = s.fuses := rfl
@[simp] theorem loseEvent_renewal (s : State) (e : FaultEvent) :
    (s.loseEvent e).renewal = s.renewal := rfl
@[simp] theorem loseEvent_time (s : State) (e : FaultEvent) : (s.loseEvent e).time = s.time := rfl
@[simp] theorem loseEvent_composer (s : State) (e : FaultEvent) :
    (s.loseEvent e).composer = s.composer := rfl
@[simp] theorem loseEvent_command (s : State) (e : FaultEvent) :
    (s.loseEvent e).command = s.command := rfl
@[simp] theorem loseEvent_transit (s : State) (e : FaultEvent) :
    (s.loseEvent e).transit = s.transit := rfl
@[simp] theorem loseEvent_responses (s : State) (e : FaultEvent) :
    (s.loseEvent e).responses = s.responses := rfl
@[simp] theorem loseEvent_freeCount (s : State) (e : FaultEvent) :
    (s.loseEvent e).freeCount = s.freeCount := rfl

@[simp] theorem setCounter_pending (s : State) (x : Fin 9) (k : RefusalCounter) :
    (s.setCounter x k).pending = s.pending := rfl
@[simp] theorem setCounter_mode (s : State) (x : Fin 9) (k : RefusalCounter) :
    (s.setCounter x k).mode = s.mode := rfl
@[simp] theorem setCounter_mem (s : State) (x : Fin 9) (k : RefusalCounter) :
    (s.setCounter x k).mem = s.mem := rfl
@[simp] theorem setCounter_windows (s : State) (x : Fin 9) (k : RefusalCounter) :
    (s.setCounter x k).windows = s.windows := rfl
@[simp] theorem setCounter_path (s : State) (x : Fin 9) (k : RefusalCounter) :
    (s.setCounter x k).path = s.path := rfl
@[simp] theorem setCounter_tag (s : State) (x : Fin 9) (k : RefusalCounter) :
    (s.setCounter x k).tag = s.tag := rfl
@[simp] theorem setCounter_keys (s : State) (x : Fin 9) (k : RefusalCounter) :
    (s.setCounter x k).keys = s.keys := rfl
@[simp] theorem setCounter_fuses (s : State) (x : Fin 9) (k : RefusalCounter) :
    (s.setCounter x k).fuses = s.fuses := rfl
@[simp] theorem setCounter_renewal (s : State) (x : Fin 9) (k : RefusalCounter) :
    (s.setCounter x k).renewal = s.renewal := rfl
@[simp] theorem setCounter_time (s : State) (x : Fin 9) (k : RefusalCounter) :
    (s.setCounter x k).time = s.time := rfl
@[simp] theorem setCounter_composer (s : State) (x : Fin 9) (k : RefusalCounter) :
    (s.setCounter x k).composer = s.composer := rfl
@[simp] theorem setCounter_command (s : State) (x : Fin 9) (k : RefusalCounter) :
    (s.setCounter x k).command = s.command := rfl
@[simp] theorem setCounter_transit (s : State) (x : Fin 9) (k : RefusalCounter) :
    (s.setCounter x k).transit = s.transit := rfl
@[simp] theorem setCounter_responses (s : State) (x : Fin 9) (k : RefusalCounter) :
    (s.setCounter x k).responses = s.responses := rfl
@[simp] theorem setCounter_freeCount (s : State) (x : Fin 9) (k : RefusalCounter) :
    (s.setCounter x k).freeCount = s.freeCount := rfl

@[simp] theorem markOffice_pending (s : State) (x : List Nat) (m : OfficeMark) :
    (s.markOffice x m).pending = s.pending := rfl
@[simp] theorem markOffice_mode (s : State) (x : List Nat) (m : OfficeMark) :
    (s.markOffice x m).mode = s.mode := rfl
@[simp] theorem markOffice_mem (s : State) (x : List Nat) (m : OfficeMark) :
    (s.markOffice x m).mem = s.mem := rfl
@[simp] theorem markOffice_windows (s : State) (x : List Nat) (m : OfficeMark) :
    (s.markOffice x m).windows = s.windows := rfl
@[simp] theorem markOffice_path (s : State) (x : List Nat) (m : OfficeMark) :
    (s.markOffice x m).path = s.path := rfl
@[simp] theorem markOffice_tag (s : State) (x : List Nat) (m : OfficeMark) :
    (s.markOffice x m).tag = s.tag := rfl
@[simp] theorem markOffice_keys (s : State) (x : List Nat) (m : OfficeMark) :
    (s.markOffice x m).keys = s.keys := rfl
@[simp] theorem markOffice_fuses (s : State) (x : List Nat) (m : OfficeMark) :
    (s.markOffice x m).fuses = s.fuses := rfl
@[simp] theorem markOffice_renewal (s : State) (x : List Nat) (m : OfficeMark) :
    (s.markOffice x m).renewal = s.renewal := rfl
@[simp] theorem markOffice_time (s : State) (x : List Nat) (m : OfficeMark) :
    (s.markOffice x m).time = s.time := rfl
@[simp] theorem markOffice_composer (s : State) (x : List Nat) (m : OfficeMark) :
    (s.markOffice x m).composer = s.composer := rfl
@[simp] theorem markOffice_command (s : State) (x : List Nat) (m : OfficeMark) :
    (s.markOffice x m).command = s.command := rfl
@[simp] theorem markOffice_transit (s : State) (x : List Nat) (m : OfficeMark) :
    (s.markOffice x m).transit = s.transit := rfl
@[simp] theorem markOffice_responses (s : State) (x : List Nat) (m : OfficeMark) :
    (s.markOffice x m).responses = s.responses := rfl
@[simp] theorem markOffice_freeCount (s : State) (x : List Nat) (m : OfficeMark) :
    (s.markOffice x m).freeCount = s.freeCount := rfl

@[simp] theorem markTaken_pending (s : State) (o : Nat) : (s.markTaken o).pending = s.pending := rfl
@[simp] theorem markTaken_mode (s : State) (o : Nat) : (s.markTaken o).mode = s.mode := rfl
@[simp] theorem markTaken_mem (s : State) (o : Nat) : (s.markTaken o).mem = s.mem := rfl
@[simp] theorem markTaken_windows (s : State) (o : Nat) : (s.markTaken o).windows = s.windows := rfl
@[simp] theorem markTaken_path (s : State) (o : Nat) : (s.markTaken o).path = s.path := rfl
@[simp] theorem markTaken_tag (s : State) (o : Nat) : (s.markTaken o).tag = s.tag := rfl
@[simp] theorem markTaken_keys (s : State) (o : Nat) : (s.markTaken o).keys = s.keys := rfl
@[simp] theorem markTaken_fuses (s : State) (o : Nat) : (s.markTaken o).fuses = s.fuses := rfl
@[simp] theorem markTaken_renewal (s : State) (o : Nat) : (s.markTaken o).renewal = s.renewal := rfl
@[simp] theorem markTaken_time (s : State) (o : Nat) : (s.markTaken o).time = s.time := rfl
@[simp] theorem markTaken_composer (s : State) (o : Nat) :
    (s.markTaken o).composer = s.composer := rfl
@[simp] theorem markTaken_command (s : State) (o : Nat) : (s.markTaken o).command = s.command := rfl
@[simp] theorem markTaken_transit (s : State) (o : Nat) : (s.markTaken o).transit = s.transit := rfl
@[simp] theorem markTaken_responses (s : State) (o : Nat) :
    (s.markTaken o).responses = s.responses := rfl
@[simp] theorem markTaken_freeCount (s : State) (o : Nat) :
    (s.markTaken o).freeCount = s.freeCount := rfl

@[simp] theorem postWritten_pending (s : State) (b : Bool) :
    (s.postWritten b).pending = s.pending := rfl
@[simp] theorem postWritten_mode (s : State) (b : Bool) : (s.postWritten b).mode = s.mode := rfl
@[simp] theorem postWritten_mem (s : State) (b : Bool) : (s.postWritten b).mem = s.mem := rfl
@[simp] theorem postWritten_windows (s : State) (b : Bool) :
    (s.postWritten b).windows = s.windows := rfl
@[simp] theorem postWritten_path (s : State) (b : Bool) : (s.postWritten b).path = s.path := rfl
@[simp] theorem postWritten_tag (s : State) (b : Bool) : (s.postWritten b).tag = s.tag := rfl
@[simp] theorem postWritten_keys (s : State) (b : Bool) : (s.postWritten b).keys = s.keys := rfl
@[simp] theorem postWritten_fuses (s : State) (b : Bool) : (s.postWritten b).fuses = s.fuses := rfl
@[simp] theorem postWritten_renewal (s : State) (b : Bool) :
    (s.postWritten b).renewal = s.renewal := rfl
@[simp] theorem postWritten_time (s : State) (b : Bool) : (s.postWritten b).time = s.time := rfl
@[simp] theorem postWritten_composer (s : State) (b : Bool) :
    (s.postWritten b).composer = s.composer := rfl
@[simp] theorem postWritten_command (s : State) (b : Bool) :
    (s.postWritten b).command = s.command := rfl
@[simp] theorem postWritten_transit (s : State) (b : Bool) :
    (s.postWritten b).transit = s.transit := rfl
@[simp] theorem postWritten_responses (s : State) (b : Bool) :
    (s.postWritten b).responses = s.responses := rfl
@[simp] theorem postWritten_freeCount (s : State) (b : Bool) :
    (s.postWritten b).freeCount = s.freeCount := rfl

@[simp] theorem ageRecords_pending (s : State) : (s.ageRecords).pending = s.pending := rfl
@[simp] theorem ageRecords_mode (s : State) : (s.ageRecords).mode = s.mode := rfl
@[simp] theorem ageRecords_mem (s : State) : (s.ageRecords).mem = s.mem := rfl
@[simp] theorem ageRecords_windows (s : State) : (s.ageRecords).windows = s.windows := rfl
@[simp] theorem ageRecords_path (s : State) : (s.ageRecords).path = s.path := rfl
@[simp] theorem ageRecords_tag (s : State) : (s.ageRecords).tag = s.tag := rfl
@[simp] theorem ageRecords_keys (s : State) : (s.ageRecords).keys = s.keys := rfl
@[simp] theorem ageRecords_fuses (s : State) : (s.ageRecords).fuses = s.fuses := rfl
@[simp] theorem ageRecords_renewal (s : State) : (s.ageRecords).renewal = s.renewal := rfl
@[simp] theorem ageRecords_time (s : State) : (s.ageRecords).time = s.time := rfl
@[simp] theorem ageRecords_composer (s : State) : (s.ageRecords).composer = s.composer := rfl
@[simp] theorem ageRecords_command (s : State) : (s.ageRecords).command = s.command := rfl
@[simp] theorem ageRecords_transit (s : State) : (s.ageRecords).transit = s.transit := rfl
@[simp] theorem ageRecords_responses (s : State) : (s.ageRecords).responses = s.responses := rfl
@[simp] theorem ageRecords_freeCount (s : State) : (s.ageRecords).freeCount = s.freeCount := rfl

@[simp] theorem issueWaiting_pending (s : State) : (s.issueWaiting).pending = s.pending := rfl
@[simp] theorem issueWaiting_mode (s : State) : (s.issueWaiting).mode = s.mode := rfl
@[simp] theorem issueWaiting_mem (s : State) : (s.issueWaiting).mem = s.mem := rfl
@[simp] theorem issueWaiting_windows (s : State) : (s.issueWaiting).windows = s.windows := rfl
@[simp] theorem issueWaiting_tag (s : State) : (s.issueWaiting).tag = s.tag := rfl
@[simp] theorem issueWaiting_keys (s : State) : (s.issueWaiting).keys = s.keys := rfl
@[simp] theorem issueWaiting_fuses (s : State) : (s.issueWaiting).fuses = s.fuses := rfl
@[simp] theorem issueWaiting_renewal (s : State) : (s.issueWaiting).renewal = s.renewal := rfl
@[simp] theorem issueWaiting_time (s : State) : (s.issueWaiting).time = s.time := rfl
@[simp] theorem issueWaiting_fault (s : State) : (s.issueWaiting).fault = s.fault := rfl
@[simp] theorem issueWaiting_composer (s : State) : (s.issueWaiting).composer = s.composer := rfl
@[simp] theorem issueWaiting_command (s : State) : (s.issueWaiting).command = s.command := rfl
@[simp] theorem issueWaiting_transit (s : State) : (s.issueWaiting).transit = s.transit := rfl
@[simp] theorem issueWaiting_responses (s : State) : (s.issueWaiting).responses = s.responses := rfl
@[simp] theorem issueWaiting_freeCount (s : State) : (s.issueWaiting).freeCount = s.freeCount := rfl

@[simp] theorem grantPassing_pending (s : State) (p : Piece) (x : List Piece) :
    (s.grantPassing p x).pending = s.pending := rfl
@[simp] theorem grantPassing_mode (s : State) (p : Piece) (x : List Piece) :
    (s.grantPassing p x).mode = s.mode := rfl
@[simp] theorem grantPassing_mem (s : State) (p : Piece) (x : List Piece) :
    (s.grantPassing p x).mem = s.mem := rfl
@[simp] theorem grantPassing_windows (s : State) (p : Piece) (x : List Piece) :
    (s.grantPassing p x).windows = s.windows := rfl
@[simp] theorem grantPassing_tag (s : State) (p : Piece) (x : List Piece) :
    (s.grantPassing p x).tag = s.tag := rfl
@[simp] theorem grantPassing_keys (s : State) (p : Piece) (x : List Piece) :
    (s.grantPassing p x).keys = s.keys := rfl
@[simp] theorem grantPassing_fuses (s : State) (p : Piece) (x : List Piece) :
    (s.grantPassing p x).fuses = s.fuses := rfl
@[simp] theorem grantPassing_renewal (s : State) (p : Piece) (x : List Piece) :
    (s.grantPassing p x).renewal = s.renewal := rfl
@[simp] theorem grantPassing_time (s : State) (p : Piece) (x : List Piece) :
    (s.grantPassing p x).time = s.time := rfl
@[simp] theorem grantPassing_fault (s : State) (p : Piece) (x : List Piece) :
    (s.grantPassing p x).fault = s.fault := rfl
@[simp] theorem grantPassing_composer (s : State) (p : Piece) (x : List Piece) :
    (s.grantPassing p x).composer = s.composer := rfl
@[simp] theorem grantPassing_command (s : State) (p : Piece) (x : List Piece) :
    (s.grantPassing p x).command = s.command := rfl
@[simp] theorem grantPassing_transit (s : State) (p : Piece) (x : List Piece) :
    (s.grantPassing p x).transit = s.transit := rfl
@[simp] theorem grantPassing_responses (s : State) (p : Piece) (x : List Piece) :
    (s.grantPassing p x).responses = s.responses := rfl
@[simp] theorem grantPassing_freeCount (s : State) (p : Piece) (x : List Piece) :
    (s.grantPassing p x).freeCount = s.freeCount := rfl

@[simp] theorem grantInternal_pending (s : State) (r : InternalRequest) (x : List InternalRequest) :
    (s.grantInternal r x).pending = s.pending := rfl
@[simp] theorem grantInternal_mode (s : State) (r : InternalRequest) (x : List InternalRequest) :
    (s.grantInternal r x).mode = s.mode := rfl
@[simp] theorem grantInternal_mem (s : State) (r : InternalRequest) (x : List InternalRequest) :
    (s.grantInternal r x).mem = s.mem := rfl
@[simp] theorem grantInternal_windows (s : State) (r : InternalRequest) (x : List InternalRequest) :
    (s.grantInternal r x).windows = s.windows := rfl
@[simp] theorem grantInternal_tag (s : State) (r : InternalRequest) (x : List InternalRequest) :
    (s.grantInternal r x).tag = s.tag := rfl
@[simp] theorem grantInternal_keys (s : State) (r : InternalRequest) (x : List InternalRequest) :
    (s.grantInternal r x).keys = s.keys := rfl
@[simp] theorem grantInternal_fuses (s : State) (r : InternalRequest) (x : List InternalRequest) :
    (s.grantInternal r x).fuses = s.fuses := rfl
@[simp] theorem grantInternal_renewal (s : State) (r : InternalRequest) (x : List InternalRequest) :
    (s.grantInternal r x).renewal = s.renewal := rfl
@[simp] theorem grantInternal_time (s : State) (r : InternalRequest) (x : List InternalRequest) :
    (s.grantInternal r x).time = s.time := rfl
@[simp] theorem grantInternal_fault (s : State) (r : InternalRequest) (x : List InternalRequest) :
    (s.grantInternal r x).fault = s.fault := rfl
@[simp] theorem grantInternal_composer (s : State) (r : InternalRequest) (x : List InternalRequest) :
    (s.grantInternal r x).composer = s.composer := rfl
@[simp] theorem grantInternal_command (s : State) (r : InternalRequest) (x : List InternalRequest) :
    (s.grantInternal r x).command = s.command := rfl
@[simp] theorem grantInternal_transit (s : State) (r : InternalRequest) (x : List InternalRequest) :
    (s.grantInternal r x).transit = s.transit := rfl
@[simp] theorem grantInternal_responses (s : State) (r : InternalRequest) (x : List InternalRequest) :
    (s.grantInternal r x).responses = s.responses := rfl
@[simp] theorem grantInternal_freeCount (s : State) (r : InternalRequest) (x : List InternalRequest) :
    (s.grantInternal r x).freeCount = s.freeCount := rfl

@[simp] theorem setHeartbeatWatch_pending (s : State) (x : Watch) :
    (s.setHeartbeatWatch x).pending = s.pending := rfl
@[simp] theorem setHeartbeatWatch_mode (s : State) (x : Watch) :
    (s.setHeartbeatWatch x).mode = s.mode := rfl
@[simp] theorem setHeartbeatWatch_mem (s : State) (x : Watch) :
    (s.setHeartbeatWatch x).mem = s.mem := rfl
@[simp] theorem setHeartbeatWatch_windows (s : State) (x : Watch) :
    (s.setHeartbeatWatch x).windows = s.windows := rfl
@[simp] theorem setHeartbeatWatch_path (s : State) (x : Watch) :
    (s.setHeartbeatWatch x).path = s.path := rfl
@[simp] theorem setHeartbeatWatch_tag (s : State) (x : Watch) :
    (s.setHeartbeatWatch x).tag = s.tag := rfl
@[simp] theorem setHeartbeatWatch_keys (s : State) (x : Watch) :
    (s.setHeartbeatWatch x).keys = s.keys := rfl
@[simp] theorem setHeartbeatWatch_fuses (s : State) (x : Watch) :
    (s.setHeartbeatWatch x).fuses = s.fuses := rfl
@[simp] theorem setHeartbeatWatch_renewal (s : State) (x : Watch) :
    (s.setHeartbeatWatch x).renewal = s.renewal := rfl
@[simp] theorem setHeartbeatWatch_fault (s : State) (x : Watch) :
    (s.setHeartbeatWatch x).fault = s.fault := rfl
@[simp] theorem setHeartbeatWatch_composer (s : State) (x : Watch) :
    (s.setHeartbeatWatch x).composer = s.composer := rfl
@[simp] theorem setHeartbeatWatch_command (s : State) (x : Watch) :
    (s.setHeartbeatWatch x).command = s.command := rfl
@[simp] theorem setHeartbeatWatch_transit (s : State) (x : Watch) :
    (s.setHeartbeatWatch x).transit = s.transit := rfl
@[simp] theorem setHeartbeatWatch_responses (s : State) (x : Watch) :
    (s.setHeartbeatWatch x).responses = s.responses := rfl
@[simp] theorem setHeartbeatWatch_freeCount (s : State) (x : Watch) :
    (s.setHeartbeatWatch x).freeCount = s.freeCount := rfl

@[simp] theorem setLink_pending (s : State) (c : Ctx) (x : Watch) :
    (s.setLink c x).pending = s.pending := rfl
@[simp] theorem setLink_mode (s : State) (c : Ctx) (x : Watch) :
    (s.setLink c x).mode = s.mode := rfl
@[simp] theorem setLink_mem (s : State) (c : Ctx) (x : Watch) : (s.setLink c x).mem = s.mem := rfl
@[simp] theorem setLink_windows (s : State) (c : Ctx) (x : Watch) :
    (s.setLink c x).windows = s.windows := rfl
@[simp] theorem setLink_path (s : State) (c : Ctx) (x : Watch) :
    (s.setLink c x).path = s.path := rfl
@[simp] theorem setLink_tag (s : State) (c : Ctx) (x : Watch) : (s.setLink c x).tag = s.tag := rfl
@[simp] theorem setLink_keys (s : State) (c : Ctx) (x : Watch) :
    (s.setLink c x).keys = s.keys := rfl
@[simp] theorem setLink_fuses (s : State) (c : Ctx) (x : Watch) :
    (s.setLink c x).fuses = s.fuses := rfl
@[simp] theorem setLink_renewal (s : State) (c : Ctx) (x : Watch) :
    (s.setLink c x).renewal = s.renewal := rfl
@[simp] theorem setLink_fault (s : State) (c : Ctx) (x : Watch) :
    (s.setLink c x).fault = s.fault := rfl
@[simp] theorem setLink_composer (s : State) (c : Ctx) (x : Watch) :
    (s.setLink c x).composer = s.composer := rfl
@[simp] theorem setLink_command (s : State) (c : Ctx) (x : Watch) :
    (s.setLink c x).command = s.command := rfl
@[simp] theorem setLink_transit (s : State) (c : Ctx) (x : Watch) :
    (s.setLink c x).transit = s.transit := rfl
@[simp] theorem setLink_responses (s : State) (c : Ctx) (x : Watch) :
    (s.setLink c x).responses = s.responses := rfl
@[simp] theorem setLink_freeCount (s : State) (c : Ctx) (x : Watch) :
    (s.setLink c x).freeCount = s.freeCount := rfl

@[simp] theorem enqueue_pending (s : State) (j : Job) : (s.enqueue j).pending = s.pending := rfl
@[simp] theorem enqueue_mode (s : State) (j : Job) : (s.enqueue j).mode = s.mode := rfl
@[simp] theorem enqueue_mem (s : State) (j : Job) : (s.enqueue j).mem = s.mem := rfl
@[simp] theorem enqueue_windows (s : State) (j : Job) : (s.enqueue j).windows = s.windows := rfl
@[simp] theorem enqueue_path (s : State) (j : Job) : (s.enqueue j).path = s.path := rfl
@[simp] theorem enqueue_keys (s : State) (j : Job) : (s.enqueue j).keys = s.keys := rfl
@[simp] theorem enqueue_fuses (s : State) (j : Job) : (s.enqueue j).fuses = s.fuses := rfl
@[simp] theorem enqueue_renewal (s : State) (j : Job) : (s.enqueue j).renewal = s.renewal := rfl
@[simp] theorem enqueue_time (s : State) (j : Job) : (s.enqueue j).time = s.time := rfl
@[simp] theorem enqueue_fault (s : State) (j : Job) : (s.enqueue j).fault = s.fault := rfl
@[simp] theorem enqueue_composer (s : State) (j : Job) : (s.enqueue j).composer = s.composer := rfl
@[simp] theorem enqueue_command (s : State) (j : Job) : (s.enqueue j).command = s.command := rfl
@[simp] theorem enqueue_transit (s : State) (j : Job) : (s.enqueue j).transit = s.transit := rfl
@[simp] theorem enqueue_responses (s : State) (j : Job) :
    (s.enqueue j).responses = s.responses := rfl
@[simp] theorem enqueue_freeCount (s : State) (j : Job) :
    (s.enqueue j).freeCount = s.freeCount := rfl

@[simp] theorem setRunning_pending (s : State) (x : Option Running) :
    (s.setRunning x).pending = s.pending := rfl
@[simp] theorem setRunning_mode (s : State) (x : Option Running) :
    (s.setRunning x).mode = s.mode := rfl
@[simp] theorem setRunning_mem (s : State) (x : Option Running) :
    (s.setRunning x).mem = s.mem := rfl
@[simp] theorem setRunning_windows (s : State) (x : Option Running) :
    (s.setRunning x).windows = s.windows := rfl
@[simp] theorem setRunning_path (s : State) (x : Option Running) :
    (s.setRunning x).path = s.path := rfl
@[simp] theorem setRunning_keys (s : State) (x : Option Running) :
    (s.setRunning x).keys = s.keys := rfl
@[simp] theorem setRunning_fuses (s : State) (x : Option Running) :
    (s.setRunning x).fuses = s.fuses := rfl
@[simp] theorem setRunning_renewal (s : State) (x : Option Running) :
    (s.setRunning x).renewal = s.renewal := rfl
@[simp] theorem setRunning_time (s : State) (x : Option Running) :
    (s.setRunning x).time = s.time := rfl
@[simp] theorem setRunning_fault (s : State) (x : Option Running) :
    (s.setRunning x).fault = s.fault := rfl
@[simp] theorem setRunning_composer (s : State) (x : Option Running) :
    (s.setRunning x).composer = s.composer := rfl
@[simp] theorem setRunning_command (s : State) (x : Option Running) :
    (s.setRunning x).command = s.command := rfl
@[simp] theorem setRunning_transit (s : State) (x : Option Running) :
    (s.setRunning x).transit = s.transit := rfl
@[simp] theorem setRunning_responses (s : State) (x : Option Running) :
    (s.setRunning x).responses = s.responses := rfl
@[simp] theorem setRunning_freeCount (s : State) (x : Option Running) :
    (s.setRunning x).freeCount = s.freeCount := rfl

@[simp] theorem setPhase_pending (s : State) (x : ComposerPhase) :
    (s.setPhase x).pending = s.pending := rfl
@[simp] theorem setPhase_mode (s : State) (x : ComposerPhase) : (s.setPhase x).mode = s.mode := rfl
@[simp] theorem setPhase_mem (s : State) (x : ComposerPhase) : (s.setPhase x).mem = s.mem := rfl
@[simp] theorem setPhase_windows (s : State) (x : ComposerPhase) :
    (s.setPhase x).windows = s.windows := rfl
@[simp] theorem setPhase_path (s : State) (x : ComposerPhase) : (s.setPhase x).path = s.path := rfl
@[simp] theorem setPhase_tag (s : State) (x : ComposerPhase) : (s.setPhase x).tag = s.tag := rfl
@[simp] theorem setPhase_keys (s : State) (x : ComposerPhase) : (s.setPhase x).keys = s.keys := rfl
@[simp] theorem setPhase_fuses (s : State) (x : ComposerPhase) :
    (s.setPhase x).fuses = s.fuses := rfl
@[simp] theorem setPhase_renewal (s : State) (x : ComposerPhase) :
    (s.setPhase x).renewal = s.renewal := rfl
@[simp] theorem setPhase_time (s : State) (x : ComposerPhase) : (s.setPhase x).time = s.time := rfl
@[simp] theorem setPhase_fault (s : State) (x : ComposerPhase) :
    (s.setPhase x).fault = s.fault := rfl
@[simp] theorem setPhase_command (s : State) (x : ComposerPhase) :
    (s.setPhase x).command = s.command := rfl
@[simp] theorem setPhase_transit (s : State) (x : ComposerPhase) :
    (s.setPhase x).transit = s.transit := rfl
@[simp] theorem setPhase_responses (s : State) (x : ComposerPhase) :
    (s.setPhase x).responses = s.responses := rfl
@[simp] theorem setPhase_freeCount (s : State) (x : ComposerPhase) :
    (s.setPhase x).freeCount = s.freeCount := rfl

@[simp] theorem latchCommand_pending (s : State) (x y : Nat) :
    (s.latchCommand x y).pending = s.pending := rfl
@[simp] theorem latchCommand_mode (s : State) (x y : Nat) :
    (s.latchCommand x y).mode = s.mode := rfl
@[simp] theorem latchCommand_mem (s : State) (x y : Nat) : (s.latchCommand x y).mem = s.mem := rfl
@[simp] theorem latchCommand_windows (s : State) (x y : Nat) :
    (s.latchCommand x y).windows = s.windows := rfl
@[simp] theorem latchCommand_path (s : State) (x y : Nat) :
    (s.latchCommand x y).path = s.path := rfl
@[simp] theorem latchCommand_tag (s : State) (x y : Nat) : (s.latchCommand x y).tag = s.tag := rfl
@[simp] theorem latchCommand_keys (s : State) (x y : Nat) :
    (s.latchCommand x y).keys = s.keys := rfl
@[simp] theorem latchCommand_fuses (s : State) (x y : Nat) :
    (s.latchCommand x y).fuses = s.fuses := rfl
@[simp] theorem latchCommand_renewal (s : State) (x y : Nat) :
    (s.latchCommand x y).renewal = s.renewal := rfl
@[simp] theorem latchCommand_time (s : State) (x y : Nat) :
    (s.latchCommand x y).time = s.time := rfl
@[simp] theorem latchCommand_fault (s : State) (x y : Nat) :
    (s.latchCommand x y).fault = s.fault := rfl
@[simp] theorem latchCommand_composer (s : State) (x y : Nat) :
    (s.latchCommand x y).composer = s.composer := rfl
@[simp] theorem latchCommand_transit (s : State) (x y : Nat) :
    (s.latchCommand x y).transit = s.transit := rfl
@[simp] theorem latchCommand_responses (s : State) (x y : Nat) :
    (s.latchCommand x y).responses = s.responses := rfl
@[simp] theorem latchCommand_freeCount (s : State) (x y : Nat) :
    (s.latchCommand x y).freeCount = s.freeCount := rfl

@[simp] theorem finishCommand_pending (s : State) (x : Status) (d : Nat) :
    (s.finishCommand x d).pending = s.pending := rfl
@[simp] theorem finishCommand_mode (s : State) (x : Status) (d : Nat) :
    (s.finishCommand x d).mode = s.mode := rfl
@[simp] theorem finishCommand_mem (s : State) (x : Status) (d : Nat) :
    (s.finishCommand x d).mem = s.mem := rfl
@[simp] theorem finishCommand_windows (s : State) (x : Status) (d : Nat) :
    (s.finishCommand x d).windows = s.windows := rfl
@[simp] theorem finishCommand_tag (s : State) (x : Status) (d : Nat) :
    (s.finishCommand x d).tag = s.tag := rfl
@[simp] theorem finishCommand_keys (s : State) (x : Status) (d : Nat) :
    (s.finishCommand x d).keys = s.keys := rfl
@[simp] theorem finishCommand_fuses (s : State) (x : Status) (d : Nat) :
    (s.finishCommand x d).fuses = s.fuses := rfl
@[simp] theorem finishCommand_renewal (s : State) (x : Status) (d : Nat) :
    (s.finishCommand x d).renewal = s.renewal := rfl
@[simp] theorem finishCommand_time (s : State) (x : Status) (d : Nat) :
    (s.finishCommand x d).time = s.time := rfl
@[simp] theorem finishCommand_fault (s : State) (x : Status) (d : Nat) :
    (s.finishCommand x d).fault = s.fault := rfl
@[simp] theorem finishCommand_composer (s : State) (x : Status) (d : Nat) :
    (s.finishCommand x d).composer = s.composer := rfl
@[simp] theorem finishCommand_transit (s : State) (x : Status) (d : Nat) :
    (s.finishCommand x d).transit = s.transit := rfl
@[simp] theorem finishCommand_responses (s : State) (x : Status) (d : Nat) :
    (s.finishCommand x d).responses = s.responses := rfl
@[simp] theorem finishCommand_freeCount (s : State) (x : Status) (d : Nat) :
    (s.finishCommand x d).freeCount = s.freeCount := rfl

@[simp] theorem issuePost_pending (s : State) : (s.issuePost).pending = s.pending := rfl
@[simp] theorem issuePost_mode (s : State) : (s.issuePost).mode = s.mode := rfl
@[simp] theorem issuePost_mem (s : State) : (s.issuePost).mem = s.mem := rfl
@[simp] theorem issuePost_windows (s : State) : (s.issuePost).windows = s.windows := rfl
@[simp] theorem issuePost_tag (s : State) : (s.issuePost).tag = s.tag := rfl
@[simp] theorem issuePost_keys (s : State) : (s.issuePost).keys = s.keys := rfl
@[simp] theorem issuePost_fuses (s : State) : (s.issuePost).fuses = s.fuses := rfl
@[simp] theorem issuePost_renewal (s : State) : (s.issuePost).renewal = s.renewal := rfl
@[simp] theorem issuePost_time (s : State) : (s.issuePost).time = s.time := rfl
@[simp] theorem issuePost_composer (s : State) : (s.issuePost).composer = s.composer := rfl
@[simp] theorem issuePost_command (s : State) : (s.issuePost).command = s.command := rfl
@[simp] theorem issuePost_transit (s : State) : (s.issuePost).transit = s.transit := rfl
@[simp] theorem issuePost_responses (s : State) : (s.issuePost).responses = s.responses := rfl
@[simp] theorem issuePost_freeCount (s : State) : (s.issuePost).freeCount = s.freeCount := rfl

@[simp] theorem takeRestart_pending (s : State) (x : Nat) :
    (s.takeRestart x).pending = s.pending := rfl
@[simp] theorem takeRestart_mem (s : State) (x : Nat) : (s.takeRestart x).mem = s.mem := rfl
@[simp] theorem takeRestart_windows (s : State) (x : Nat) :
    (s.takeRestart x).windows = s.windows := rfl
@[simp] theorem takeRestart_tag (s : State) (x : Nat) : (s.takeRestart x).tag = s.tag := rfl
@[simp] theorem takeRestart_keys (s : State) (x : Nat) : (s.takeRestart x).keys = s.keys := rfl
@[simp] theorem takeRestart_fuses (s : State) (x : Nat) : (s.takeRestart x).fuses = s.fuses := rfl
@[simp] theorem takeRestart_renewal (s : State) (x : Nat) :
    (s.takeRestart x).renewal = s.renewal := rfl
@[simp] theorem takeRestart_time (s : State) (x : Nat) : (s.takeRestart x).time = s.time := rfl
@[simp] theorem takeRestart_fault (s : State) (x : Nat) : (s.takeRestart x).fault = s.fault := rfl
@[simp] theorem takeRestart_composer (s : State) (x : Nat) :
    (s.takeRestart x).composer = s.composer := rfl
@[simp] theorem takeRestart_transit (s : State) (x : Nat) :
    (s.takeRestart x).transit = s.transit := rfl
@[simp] theorem takeRestart_responses (s : State) (x : Nat) :
    (s.takeRestart x).responses = s.responses := rfl
@[simp] theorem takeRestart_freeCount (s : State) (x : Nat) :
    (s.takeRestart x).freeCount = s.freeCount := rfl

/-! Updates that a condition guards. -/

@[simp] theorem updateSlot_pending (s : State) (i : SlotId) (f : KeySlot → KeySlot) :
    (s.updateSlot i f).pending = s.pending := by
  unfold State.updateSlot; split <;> rfl
@[simp] theorem updateSlot_mode (s : State) (i : SlotId) (f : KeySlot → KeySlot) :
    (s.updateSlot i f).mode = s.mode := by
  unfold State.updateSlot; split <;> rfl
@[simp] theorem updateSlot_mem (s : State) (i : SlotId) (f : KeySlot → KeySlot) :
    (s.updateSlot i f).mem = s.mem := by
  unfold State.updateSlot; split <;> rfl
@[simp] theorem updateSlot_windows (s : State) (i : SlotId) (f : KeySlot → KeySlot) :
    (s.updateSlot i f).windows = s.windows := by
  unfold State.updateSlot; split <;> rfl
@[simp] theorem updateSlot_path (s : State) (i : SlotId) (f : KeySlot → KeySlot) :
    (s.updateSlot i f).path = s.path := by
  unfold State.updateSlot; split <;> rfl
@[simp] theorem updateSlot_tag (s : State) (i : SlotId) (f : KeySlot → KeySlot) :
    (s.updateSlot i f).tag = s.tag := by
  unfold State.updateSlot; split <;> rfl
@[simp] theorem updateSlot_fuses (s : State) (i : SlotId) (f : KeySlot → KeySlot) :
    (s.updateSlot i f).fuses = s.fuses := by
  unfold State.updateSlot; split <;> rfl
@[simp] theorem updateSlot_renewal (s : State) (i : SlotId) (f : KeySlot → KeySlot) :
    (s.updateSlot i f).renewal = s.renewal := by
  unfold State.updateSlot; split <;> rfl
@[simp] theorem updateSlot_time (s : State) (i : SlotId) (f : KeySlot → KeySlot) :
    (s.updateSlot i f).time = s.time := by
  unfold State.updateSlot; split <;> rfl
@[simp] theorem updateSlot_fault (s : State) (i : SlotId) (f : KeySlot → KeySlot) :
    (s.updateSlot i f).fault = s.fault := by
  unfold State.updateSlot; split <;> rfl
@[simp] theorem updateSlot_composer (s : State) (i : SlotId) (f : KeySlot → KeySlot) :
    (s.updateSlot i f).composer = s.composer := by
  unfold State.updateSlot; split <;> rfl
@[simp] theorem updateSlot_command (s : State) (i : SlotId) (f : KeySlot → KeySlot) :
    (s.updateSlot i f).command = s.command := by
  unfold State.updateSlot; split <;> rfl
@[simp] theorem updateSlot_transit (s : State) (i : SlotId) (f : KeySlot → KeySlot) :
    (s.updateSlot i f).transit = s.transit := by
  unfold State.updateSlot; split <;> rfl
@[simp] theorem updateSlot_responses (s : State) (i : SlotId) (f : KeySlot → KeySlot) :
    (s.updateSlot i f).responses = s.responses := by
  unfold State.updateSlot; split <;> rfl
@[simp] theorem updateSlot_freeCount (s : State) (i : SlotId) (f : KeySlot → KeySlot) :
    (s.updateSlot i f).freeCount = s.freeCount := by
  unfold State.updateSlot; split <;> rfl

@[simp] theorem updateParcel_pending (s : State) (w : WindowIndex) (p : Nat) (f : ParcelRecord → ParcelRecord) :
    (s.updateParcel w p f).pending = s.pending := by
  unfold State.updateParcel; split <;> rfl
@[simp] theorem updateParcel_mode (s : State) (w : WindowIndex) (p : Nat) (f : ParcelRecord → ParcelRecord) :
    (s.updateParcel w p f).mode = s.mode := by
  unfold State.updateParcel; split <;> rfl
@[simp] theorem updateParcel_mem (s : State) (w : WindowIndex) (p : Nat) (f : ParcelRecord → ParcelRecord) :
    (s.updateParcel w p f).mem = s.mem := by
  unfold State.updateParcel; split <;> rfl
@[simp] theorem updateParcel_path (s : State) (w : WindowIndex) (p : Nat) (f : ParcelRecord → ParcelRecord) :
    (s.updateParcel w p f).path = s.path := by
  unfold State.updateParcel; split <;> rfl
@[simp] theorem updateParcel_tag (s : State) (w : WindowIndex) (p : Nat) (f : ParcelRecord → ParcelRecord) :
    (s.updateParcel w p f).tag = s.tag := by
  unfold State.updateParcel; split <;> rfl
@[simp] theorem updateParcel_keys (s : State) (w : WindowIndex) (p : Nat) (f : ParcelRecord → ParcelRecord) :
    (s.updateParcel w p f).keys = s.keys := by
  unfold State.updateParcel; split <;> rfl
@[simp] theorem updateParcel_fuses (s : State) (w : WindowIndex) (p : Nat) (f : ParcelRecord → ParcelRecord) :
    (s.updateParcel w p f).fuses = s.fuses := by
  unfold State.updateParcel; split <;> rfl
@[simp] theorem updateParcel_renewal (s : State) (w : WindowIndex) (p : Nat) (f : ParcelRecord → ParcelRecord) :
    (s.updateParcel w p f).renewal = s.renewal := by
  unfold State.updateParcel; split <;> rfl
@[simp] theorem updateParcel_time (s : State) (w : WindowIndex) (p : Nat) (f : ParcelRecord → ParcelRecord) :
    (s.updateParcel w p f).time = s.time := by
  unfold State.updateParcel; split <;> rfl
@[simp] theorem updateParcel_fault (s : State) (w : WindowIndex) (p : Nat) (f : ParcelRecord → ParcelRecord) :
    (s.updateParcel w p f).fault = s.fault := by
  unfold State.updateParcel; split <;> rfl
@[simp] theorem updateParcel_composer (s : State) (w : WindowIndex) (p : Nat) (f : ParcelRecord → ParcelRecord) :
    (s.updateParcel w p f).composer = s.composer := by
  unfold State.updateParcel; split <;> rfl
@[simp] theorem updateParcel_command (s : State) (w : WindowIndex) (p : Nat) (f : ParcelRecord → ParcelRecord) :
    (s.updateParcel w p f).command = s.command := by
  unfold State.updateParcel; split <;> rfl
@[simp] theorem updateParcel_transit (s : State) (w : WindowIndex) (p : Nat) (f : ParcelRecord → ParcelRecord) :
    (s.updateParcel w p f).transit = s.transit := by
  unfold State.updateParcel; split <;> rfl
@[simp] theorem updateParcel_responses (s : State) (w : WindowIndex) (p : Nat) (f : ParcelRecord → ParcelRecord) :
    (s.updateParcel w p f).responses = s.responses := by
  unfold State.updateParcel; split <;> rfl
@[simp] theorem updateParcel_freeCount (s : State) (w : WindowIndex) (p : Nat) (f : ParcelRecord → ParcelRecord) :
    (s.updateParcel w p f).freeCount = s.freeCount := by
  unfold State.updateParcel; split <;> rfl

end Sys2Proof.Machine
end

