-- ==== Sys2Proof/Laws/Moves.lean ====
section
/-! SUPPORT. What a step can do, said once: the small changes of state every operation is made of, and the proof for the operations below the meanings. -/

namespace Sys2Proof.Machine

/-- How many pieces the passing stream of a path holds. -/
def passingOf (p : MemoryPath) : Nat :=
  p.passing.length + (p.flight.filter Flight.isPassing).length

/-- How many requests the internal stream of a path holds. -/
def internalOf (p : MemoryPath) : Nat :=
  p.internal.length + (p.flight.filter fun f => !f.isPassing).length

/-- A slot that keeps its state and context, or is neither ACTIVE nor DRAINING. -/
def SameService (k k' : KeySlot) : Prop :=
  (k'.state = k.state ∧ k'.context = k.context) ∨ (k'.state ≠ .active ∧ k'.state ≠ .draining)

/-- A small change that writes no memory, places no piece in the passing stream,
leaves the fuses, the renewal unit's copy of them and the command queue, keeps the
queues within their bounds, ATTN in step with the records, the windows laid out, and
at most one ACTIVE and one DRAINING slot in each context. -/
inductive Calm (s : State) : State → Prop where
  | window (w : WindowIndex) (e : Option Window)
      (laid : WindowsLaidOut s → WindowsLaidOut (s.setWindow w e)) : Calm s (s.setWindow w e)
  | slot (i : SlotId) (f : KeySlot → KeySlot) (service : SameService (s.slot i) (f (s.slot i))) :
      Calm s (s.updateSlot i f)
  | slots (ks : Vector KeySlot 16) (null : ks[0] = s.keys.slots[0])
      (service : OneEach s → OneEach { s with keys := { s.keys with slots := ks } }) :
      Calm s { s with keys := { s.keys with slots := ks } }
  | context (c : Ctx) (f : ContextRow → ContextRow) : Calm s (s.updateContext c f)
  | grouping (g : Grouping) : Calm s { s with keys := { s.keys with grouping := g } }
  | fault (f : FaultUnit)
      (bound : f.queue.length ≤ s.fault.queue.length ∨ f.queue.length ≤ 8)
      (level : s.fault.attn = attnLevel s.fault.queue → f.attn = attnLevel f.queue) :
      Calm s { s with fault := f }
  | tag (t : TagEngine)
      (bound : t.queue.length ≤ s.tag.queue.length ∨ t.queue.length ≤ 16) :
      Calm s { s with tag := t }
  | path (p : MemoryPath) (passing : passingOf p ≤ passingOf s.path)
      (inner : internalOf p ≤ internalOf s.path ∨ internalOf p ≤ 16) :
      Calm s { s with path := p }
  | renewal (l : List ImportEntry) (r : Option ImportRun) :
      Calm s { s with renewal := { s.renewal with importList := l, importing := r } }
  | time (t : Timebase) : Calm s { s with time := t }
  | composer (c : Composer) : Calm s { s with composer := c }
  | command (c : CommandUnit) : Calm s { s with command := c }
  | transit (t : Transit) : Calm s { s with transit := t }
  | responses (r : List Response) : Calm s { s with responses := r }
  | mode (m : PartMode) : Calm s { s with mode := m }

/-- Any number of small changes. -/
abbrev Runs : State → State → Prop :=
  Relation.ReflTransGen Calm

theorem Runs.refl (s : State) : Runs s s :=
  Relation.ReflTransGen.refl

theorem Calm.runs {s t : State} (h : Calm s t) : Runs s t :=
  Relation.ReflTransGen.single h

/-- What every small change keeps, any number of them keep. -/
theorem Runs.keeps {P : State → Prop} (h : ∀ s t, P s → Calm s t → P t) {s t : State}
    (r : Runs s t) : P s → P t := by
  induction r with
  | refl => exact id
  | tail _ c ih => exact fun p => h _ _ (ih p) c

/-- A value every small change leaves, any number of them leave. -/
theorem Runs.leaves {α : Type} (v : State → α) (h : ∀ s t, Calm s t → v t = v s) {s t : State}
    (r : Runs s t) : v t = v s :=
  r.keeps (P := fun u => v u = v s) (fun a b p c => (h a b c).trans p) rfl

theorem runs_foldl {α : Type} (f : State → α → State) (h : ∀ t x, Runs t (f t x)) :
    ∀ (l : List α) (s : State), Runs s (l.foldl f s)
  | [], s => Runs.refl s
  | x :: l, s => (h s x).trans (runs_foldl f h l (f s x))

theorem runs_ite {c : Prop} [Decidable c] {s a b : State} (ha : c → Runs s a)
    (hb : ¬c → Runs s b) : Runs s (if c then a else b) := by
  by_cases h : c
  · rw [if_pos h]; exact ha h
  · rw [if_neg h]; exact hb h

/-- Changes of the fault unit, the composer and what is in transit. -/
theorem runs_of_fault {s t : State}
    (h : t = { s with fault := t.fault, composer := t.composer, transit := t.transit })
    (bound : t.fault.queue.length ≤ s.fault.queue.length ∨ t.fault.queue.length ≤ 8)
    (level : s.fault.attn = attnLevel s.fault.queue → t.fault.attn = attnLevel t.fault.queue) :
    Runs s t := by
  rw [h]
  exact (((Calm.fault t.fault bound level).runs).trans (Calm.composer t.composer).runs).trans
    (Calm.transit t.transit).runs

/-- Changes of the fault unit that leave its records and ATTN. -/
theorem runs_same_queue {s t : State} (h : t = { s with fault := t.fault })
    (hq : t.fault.queue = s.fault.queue) (ha : t.fault.attn = s.fault.attn) : Runs s t := by
  rw [h]
  exact (Calm.fault t.fault (.inl (by rw [hq])) fun l => by rw [ha, hq]; exact l).runs

/-! ### Tables -/

theorem window_setWindow (s : State) (w v : WindowIndex) (e : Option Window) :
    (s.setWindow w e).window v = if v = w then e else s.window v := by
  unfold State.setWindow State.window
  simp only [Fin.getElem_fin, Vector.getElem_set]
  by_cases h : v = w
  · rw [if_pos (by rw [h]), if_pos h]
  · rw [if_neg (fun x => h (Fin.ext x.symm)), if_neg h]

/-- An entry that is laid out and agrees with every other one keeps the table laid out. -/
theorem laidOut_set {s : State} {w : WindowIndex} {e : Window} (he : WindowLaidOut e)
    (hf : ∀ v, ∀ f ∈ s.window v, v ≠ w →
      (e.base + 2048 * e.count ≤ f.base ∨ f.base + 2048 * f.count ≤ e.base) ∧
        ¬(e.role = .notice ∧ f.role = .notice) ∧ ¬(e.role = .renewal ∧ f.role = .renewal))
    (h : WindowsLaidOut s) : WindowsLaidOut (s.setWindow w (some e)) := by
  intro x a ha
  rw [window_setWindow] at ha
  by_cases hx : x = w
  · rw [if_pos hx] at ha
    cases Option.mem_some_iff.mp ha
    refine ⟨he, fun v f hv hne => ?_⟩
    rw [window_setWindow, if_neg (fun y => hne (y.trans hx.symm))] at hv
    exact hf v f hv fun y => hne (y.trans hx.symm)
  · rw [if_neg hx] at ha
    refine ⟨(h x a ha).1, fun v f hv hne => ?_⟩
    rw [window_setWindow] at hv
    by_cases hvw : v = w
    · rw [if_pos hvw] at hv
      cases Option.mem_some_iff.mp hv
      obtain ⟨h1, h2, h3⟩ := hf x a ha hx
      exact ⟨h1.symm, fun y => h2 ⟨y.2, y.1⟩, fun y => h3 ⟨y.2, y.1⟩⟩
    · rw [if_neg hvw] at hv
      exact (h x a ha).2 v f hv hne

theorem laidOut_clear {s : State} {w : WindowIndex} (h : WindowsLaidOut s) :
    WindowsLaidOut (s.setWindow w none) := by
  intro x a ha
  rw [window_setWindow] at ha
  by_cases hx : x = w
  · rw [if_pos hx] at ha; cases ha
  · rw [if_neg hx] at ha
    refine ⟨(h x a ha).1, fun v f hv hne => ?_⟩
    rw [window_setWindow] at hv
    by_cases hvw : v = w
    · rw [if_pos hvw] at hv; cases hv
    · rw [if_neg hvw] at hv; exact (h x a ha).2 v f hv hne

theorem updateParcel_runs (s : State) (w : WindowIndex) (p : Nat) (f : ParcelRecord → ParcelRecord) :
    Runs s (s.updateParcel w p f) := by
  unfold State.updateParcel
  split
  · exact Runs.refl s
  · rename_i e he
    exact (Calm.window _ _ fun h => laidOut_set
      (e := { e with parcels := e.parcels.modify p f })
      (by rw [WindowLaidOut, List.length_modify]; exact (h w e he).1)
      (fun v f hv hne => (h w e he).2 v f hv hne) h).runs

theorem updateSlot_runs (s : State) (i : SlotId) (f : KeySlot → KeySlot)
    (h : SameService (s.slot i) (f (s.slot i))) : Runs s (s.updateSlot i f) :=
  (Calm.slot i f h).runs

theorem leaveService_same (k k' : KeySlot) : SameService k k'.leaveService := by
  unfold KeySlot.leaveService
  split
  · exact .inr ⟨by decide, by decide⟩
  · exact .inr ⟨by simp, by simp⟩

theorem dropReference_same (k : KeySlot) : SameService k k.dropReference := by
  unfold KeySlot.dropReference
  split
  · exact .inr ⟨by decide, by decide⟩
  · exact .inl ⟨rfl, rfl⟩

theorem updateContext_runs (s : State) (c : Ctx) (f : ContextRow → ContextRow) :
    Runs s (s.updateContext c f) :=
  (Calm.context c f).runs

theorem raise_runs (s : State) (e : FaultEvent) : Runs s (s.raise e) :=
  (Calm.transit _).runs

theorem reportRefusal_runs (s : State) (x : Fin 9) (y : RefusalReason) (z : Option Nat) :
    Runs s (s.reportRefusal x y z) :=
  (Calm.transit _).runs

theorem noteExamination_runs (s : State) : Runs s s.noteExamination :=
  (Calm.transit _).runs

theorem want_runs (s : State) (x : Purpose) (a : Nat) (y : Access) (o : Nat) :
    Runs s (s.want x a y o) :=
  (Calm.path (s := s) (s.want x a y o).path (Nat.le_refl _) (.inl (Nat.le_refl _))).runs

theorem wantAll_runs (s : State) (l : List InternalRequest) : Runs s (s.wantAll l) :=
  (Calm.path (s := s) (s.wantAll l).path (Nat.le_refl _) (.inl (Nat.le_refl _))).runs

theorem ignore_isPassing (d : Purpose → Bool) (f : Flight) :
    (f.ignore d).isPassing = f.isPassing := by
  cases f <;> rfl

theorem passing_of_ignored (d : Purpose → Bool) (l : List Flight) :
    ((l.map (Flight.ignore d)).filter Flight.isPassing).length =
      (l.filter Flight.isPassing).length := by
  induction l with
  | nil => rfl
  | cons f l ih => by_cases h : f.isPassing <;> simp [ignore_isPassing, h, ih]

theorem inner_of_ignored (d : Purpose → Bool) (l : List Flight) :
    ((l.map (Flight.ignore d)).filter fun f => !f.isPassing).length =
      (l.filter fun f => !f.isPassing).length := by
  induction l with
  | nil => rfl
  | cons f l ih => by_cases h : f.isPassing <;> simp [ignore_isPassing, h, ih]

theorem discard_runs (s : State) (d : Purpose → Bool) : Runs s (s.discard d) := by
  refine (Calm.path _ ?_ (.inl ?_)).runs
  · simp only [passingOf, passing_of_ignored]; exact Nat.le_refl _
  · simp only [internalOf, inner_of_ignored, List.length_map]; exact Nat.le_refl _

/-! ### Key table -/

theorem evaluateHold_runs (s : State) (c : Ctx) : Runs s (s.evaluateHold c) :=
  updateContext_runs _ _ _

theorem evaluateRenewalDue_runs (s : State) (c : Ctx) : Runs s (s.evaluateRenewalDue c) := by
  unfold State.evaluateRenewalDue
  split
  · exact Runs.refl s
  · exact runs_ite (fun _ => (updateSlot_runs _ _ _ (.inl ⟨rfl, rfl⟩)).trans (raise_runs _ _))
      fun _ => Runs.refl s

theorem setRenewalDueMark_runs (s : State) (i : SlotId) (m : Tick) :
    Runs s (s.setRenewalDueMark i m) :=
  updateSlot_runs _ _ _ (.inl ⟨rfl, rfl⟩)

/-- A slot after a change of one slot. -/
theorem slot_updateSlot (s : State) (i j : SlotId) (f : KeySlot → KeySlot) :
    (s.updateSlot i f).slot j = if j = i ∧ i ≠ 0 then f (s.slot i) else s.slot j := by
  unfold State.updateSlot
  by_cases hi : i = 0
  · rw [if_pos hi, if_neg (fun h => h.2 hi)]
  · rw [if_neg hi]
    unfold State.slot
    simp only [Fin.getElem_fin, Vector.getElem_set]
    by_cases hj : j = i
    · rw [if_pos (by rw [hj]), if_pos ⟨hj, hi⟩]
    · rw [if_neg (fun h => hj (Fin.ext h.symm)), if_neg (fun h => hj h.1)]

theorem updateSlot_slots (s : State) (i : SlotId) (f : KeySlot → KeySlot) :
    s.updateSlot i f = { s with keys := { s.keys with slots := (s.updateSlot i f).keys.slots } } ∧
      (s.updateSlot i f).slot 0 = s.slot 0 := by
  refine ⟨?_, ?_⟩
  · unfold State.updateSlot
    split <;> rfl
  · rw [slot_updateSlot, if_neg (fun h => h.2 h.1.symm)]

/-- t is s with changes of usable slots only, which keep one of each. -/
def SlotsOnly (s t : State) : Prop :=
  t = { s with keys := { s.keys with slots := t.keys.slots } } ∧ t.slot 0 = s.slot 0

theorem SlotsOnly.trans {s t u : State} (h : SlotsOnly s t) (h' : SlotsOnly t u) :
    SlotsOnly s u := by
  refine ⟨?_, h'.2.trans h.2⟩
  have h1 := h'.1
  generalize u.keys.slots = x at h1
  have h2 := h.1
  generalize t.keys.slots = y at h2
  subst h2
  exact h1

theorem SlotsOnly.runs {s t : State} (h : SlotsOnly s t) (k : OneEach s → OneEach t) :
    Runs s t := by
  have h1 := h.1
  have h2 := h.2
  unfold State.slot at h2
  generalize t.keys.slots = x at h1 h2
  subst h1
  exact (Calm.slots x h2 k).runs

theorem updateSlot_only (s : State) (i : SlotId) (f : KeySlot → KeySlot) :
    SlotsOnly s (s.updateSlot i f) :=
  updateSlot_slots s i f

/-- No usable slot of a context is in a state. -/
def NoneIn (s : State) (c : Ctx) (st : SlotState) : Prop :=
  ∀ i : SlotId, i ≠ 0 → (s.slot i).context = c → (s.slot i).state ≠ st

theorem slotsIn_mem {s : State} {c : Ctx} {st : SlotState} {i : SlotId} :
    i ∈ s.slotsIn c st ↔ i ≠ 0 ∧ (s.slot i).context = c ∧ (s.slot i).state = st := by
  have hu : ∀ j : SlotId, j ∈ usableSlots ↔ j ≠ 0 := by decide
  simp only [State.slotsIn, List.mem_filter, hu, Bool.and_eq_true, decide_eq_true_eq]
  constructor
  · rintro ⟨h1, h2, h3⟩
    exact ⟨h1, h3, h2⟩
  · rintro ⟨h1, h2, h3⟩
    exact ⟨h1, h3, h2⟩

theorem head_mem {l : List SlotId} {i : SlotId} (h : l.head? = some i) : i ∈ l :=
  List.mem_of_mem_head? h

/-- A slot that keeps or leaves service keeps one of each. -/
theorem oneEach_update {s : State} {i : SlotId} {f : KeySlot → KeySlot} (h : OneEach s)
    (hf : SameService (s.slot i) (f (s.slot i))) : OneEach (s.updateSlot i f) := by
  have key : ∀ j, SameService (s.slot j) ((s.updateSlot i f).slot j) := by
    intro j
    rw [slot_updateSlot]
    by_cases hj : j = i ∧ i ≠ 0
    · rw [if_pos hj, hj.1]
      exact hf
    · rw [if_neg hj]
      exact .inl ⟨rfl, rfl⟩
  intro j k hj hk hc hs hin
  rcases key j with ⟨a1, a2⟩ | ⟨a1, a2⟩
  · rcases key k with ⟨b1, b2⟩ | ⟨b1, b2⟩
    · rw [a2, b2] at hc
      rw [a1, b1] at hs
      rw [a1] at hin
      exact h j k hj hk hc hs hin
    · rw [← hs] at b1 b2
      exact absurd hin (by simp [b1, b2])
  · exact absurd hin (by simp [a1, a2])

/-- A slot may enter a state of service none of its context is in. -/
theorem oneEach_enter {s : State} {i : SlotId} {f : KeySlot → KeySlot} {st : SlotState}
    (h : OneEach s) (hn : NoneIn s (s.slot i).context st) (h1 : (f (s.slot i)).state = st)
    (h2 : (f (s.slot i)).context = (s.slot i).context) : OneEach (s.updateSlot i f) := by
  intro j k hj hk hc hs hin
  rw [slot_updateSlot, slot_updateSlot] at hc hs
  rw [slot_updateSlot] at hin
  by_cases a : j = i ∧ i ≠ 0
  · by_cases b : k = i ∧ i ≠ 0
    · rw [a.1, b.1]
    · rw [if_pos a, if_neg b, h1] at hs
      rw [if_pos a, if_neg b, h2] at hc
      exact absurd hs.symm (hn k hk hc.symm)
  · rw [if_neg a] at hc hs hin
    by_cases b : k = i ∧ i ≠ 0
    · rw [if_pos b, h1] at hs
      rw [if_pos b, h2] at hc
      exact absurd hs (hn j hj hc)
    · rw [if_neg b] at hc hs
      exact h j k hj hk hc hs hin

theorem none_update {s : State} {i : SlotId} {f : KeySlot → KeySlot} {c : Ctx} {st : SlotState}
    (h : NoneIn s c st) (hf : (f (s.slot i)).context = c → (f (s.slot i)).state ≠ st) :
    NoneIn (s.updateSlot i f) c st := by
  intro j hj hc
  rw [slot_updateSlot] at hc ⊢
  by_cases a : j = i ∧ i ≠ 0
  · rw [if_pos a] at hc ⊢
    exact hf hc
  · rw [if_neg a] at hc ⊢
    exact h j hj hc

/-- Step 1 of a changeover leaves no slot DRAINING. -/
theorem retireDraining_none {s : State} (c : Ctx) (h : OneEach s) :
    SlotsOnly s (s.retireDraining c) ∧ OneEach (s.retireDraining c) ∧
      NoneIn (s.retireDraining c) c .draining := by
  unfold State.retireDraining
  cases hd : s.drainingSlot c with
  | none =>
    refine ⟨⟨rfl, rfl⟩, h, ?_⟩
    intro i hi hc hs
    have : i ∈ s.slotsIn c .draining := slotsIn_mem.2 ⟨hi, hc, hs⟩
    unfold State.drainingSlot at hd
    rw [List.head?_eq_none_iff] at hd
    rw [hd] at this
    simp at this
  | some d =>
    dsimp only
    obtain ⟨h0, h1, h2⟩ := slotsIn_mem.1 (head_mem hd)
    refine ⟨updateSlot_only _ _ _, oneEach_update h (leaveService_same _ _), ?_⟩
    intro i hi hc hs
    rw [slot_updateSlot] at hc hs
    by_cases a : i = d ∧ d ≠ 0
    · rw [if_pos a] at hs
      rcases leaveService_same (s.slot d) (s.slot d) with ⟨b1, b2⟩ | ⟨b1, b2⟩
      · unfold KeySlot.leaveService at hs
        split at hs
        · exact absurd hs (by decide)
        · exact absurd hs (by simp)
      · exact b2 hs
    · rw [if_neg a] at hc hs
      exact a ⟨h i d hi h0 (hc.trans h1.symm) (hs.trans h2.symm) (.inr hs), h0⟩

/-- Step 2 of a changeover leaves no slot ACTIVE. -/
theorem drainActive_none {s : State} (c : Ctx) (h : OneEach s) (hd : NoneIn s c .draining) :
    SlotsOnly s (s.drainActive c) ∧ OneEach (s.drainActive c) ∧
      NoneIn (s.drainActive c) c .active := by
  unfold State.drainActive
  cases ha : s.activeSlot c with
  | none =>
    refine ⟨⟨rfl, rfl⟩, h, ?_⟩
    intro i hi hc hs
    have : i ∈ s.slotsIn c .active := slotsIn_mem.2 ⟨hi, hc, hs⟩
    unfold State.activeSlot at ha
    rw [List.head?_eq_none_iff] at ha
    rw [ha] at this
    simp at this
  | some a =>
    dsimp only
    obtain ⟨h0, h1, h2⟩ := slotsIn_mem.1 (head_mem ha)
    refine ⟨updateSlot_only _ _ _, oneEach_enter h (by rw [h1]; exact hd) rfl rfl, ?_⟩
    intro i hi hc hs
    unfold State.startDraining at hc hs
    rw [slot_updateSlot] at hc hs
    by_cases b : i = a ∧ a ≠ 0
    · rw [if_pos b] at hs
      exact absurd hs (by simp)
    · rw [if_neg b] at hc hs
      exact b ⟨h i a hi h0 (hc.trans h1.symm) (hs.trans h2.symm) (.inl hs), h0⟩

theorem makeActive_one {s : State} (c : Ctx) (i : SlotId) (h : OneEach s)
    (hc : (s.slot i).context = c) (ha : NoneIn s c .active) :
    SlotsOnly s (s.makeActive c i) ∧ OneEach (s.makeActive c i) := by
  unfold State.makeActive State.setRenewalDueMark
  dsimp only
  refine ⟨(updateSlot_only _ _ _).trans (updateSlot_only _ _ _), ?_⟩
  refine oneEach_update (oneEach_enter h (by rw [hc]; exact ha) rfl rfl) ?_
  exact .inl ⟨rfl, rfl⟩

theorem foldl_older (s : State) : ∀ (l : List SlotId) (i : SlotId),
    l.foldl s.older i = i ∨ l.foldl s.older i ∈ l
  | [], _ => .inl rfl
  | j :: l, i => by
    rw [List.foldl_cons]
    rcases foldl_older s l (s.older i j) with h | h
    · rw [h]
      unfold State.older
      split
      · exact .inr List.mem_cons_self
      · exact .inl rfl
    · exact .inr (List.mem_cons_of_mem _ h)

theorem stagedHead_mem {s : State} {c : Ctx} {h : SlotId} (hh : s.stagedHead c = some h) :
    h ∈ s.slotsIn c .staged := by
  unfold State.stagedHead at hh
  cases hl : s.slotsIn c .staged with
  | nil => rw [hl] at hh; simp at hh
  | cons i l =>
    rw [hl] at hh
    have := Option.some.inj hh
    rcases foldl_older s l i with h1 | h1
    · rw [← this, h1]
      exact List.mem_cons_self
    · rw [← this]
      exact List.mem_cons_of_mem _ h1

theorem retireDraining_only (s : State) (c : Ctx) : SlotsOnly s (s.retireDraining c) := by
  unfold State.retireDraining
  split
  · exact ⟨rfl, rfl⟩
  · exact updateSlot_only _ _ _

theorem drainActive_only (s : State) (c : Ctx) : SlotsOnly s (s.drainActive c) := by
  unfold State.drainActive
  split
  · exact ⟨rfl, rfl⟩
  · exact updateSlot_only _ _ _

theorem makeActive_only (s : State) (c : Ctx) (i : SlotId) : SlotsOnly s (s.makeActive c i) := by
  unfold State.makeActive State.setRenewalDueMark
  exact (updateSlot_only _ _ _).trans (updateSlot_only _ _ _)

/-- A slot that is not the DRAINING one is left by the first step of a changeover. -/
theorem retireDraining_slot {s : State} {c : Ctx} {h : SlotId}
    (hs : (s.slot h).state ≠ .draining) : (s.retireDraining c).slot h = s.slot h := by
  unfold State.retireDraining
  cases hd : s.drainingSlot c with
  | none => rfl
  | some d =>
    dsimp only
    rw [slot_updateSlot, if_neg]
    rintro ⟨rfl, _⟩
    exact hs (slotsIn_mem.1 (head_mem hd)).2.2

/-- A slot that is not the ACTIVE one is left by the second step of a changeover. -/
theorem drainActive_slot {s : State} {c : Ctx} {h : SlotId}
    (hs : (s.slot h).state ≠ .active) : (s.drainActive c).slot h = s.slot h := by
  unfold State.drainActive
  cases ha : s.activeSlot c with
  | none => rfl
  | some a =>
    dsimp only
    unfold State.startDraining
    rw [slot_updateSlot, if_neg]
    rintro ⟨rfl, _⟩
    exact hs (slotsIn_mem.1 (head_mem ha)).2.2

/-- Steps 1 to 3 of a changeover. -/
theorem changedSlots_runs (s : State) (c : Ctx) (h : SlotId) (hh : s.stagedHead c = some h) :
    Runs s (((s.retireDraining c).drainActive c).makeActive c h) := by
  obtain ⟨h0, h1, h2⟩ := slotsIn_mem.1 (stagedHead_mem hh)
  have hr : (s.retireDraining c).slot h = s.slot h :=
    retireDraining_slot (by rw [h2]; decide)
  have hslot : (((s.retireDraining c).drainActive c).slot h).context = c := by
    rw [drainActive_slot (by rw [hr, h2]; decide), hr, h1]
  refine SlotsOnly.runs (((retireDraining_only _ _).trans (drainActive_only _ _)).trans
    (makeActive_only _ _ _)) fun ho => ?_
  obtain ⟨_, a2, a3⟩ := retireDraining_none c ho
  obtain ⟨_, b2, b3⟩ := drainActive_none c a2 a3
  exact (makeActive_one c h b2 hslot b3).2

/-- The end of an expiry without a staged head: the DRAINING slot leaves service
and the ACTIVE one drains. -/
theorem expiredSlots_runs (s : State) (c : Ctx) (i : SlotId) (ha : (s.slot i).state = .active)
    (hc : (s.slot i).context = c) : Runs s ((s.retireDraining c).startDraining c i) := by
  refine SlotsOnly.runs ((retireDraining_only _ _).trans (updateSlot_only _ _ _)) fun ho => ?_
  obtain ⟨_, a2, a3⟩ := retireDraining_none c ho
  have hr : (s.retireDraining c).slot i = s.slot i :=
    retireDraining_slot (by rw [ha]; decide)
  exact oneEach_enter a2 (by rw [hr, hc]; exact a3) rfl rfl

theorem changeoverOnce_runs (s : State) (c : Ctx) : Runs s (s.changeoverOnce c) := by
  unfold State.changeoverOnce
  split
  · exact Runs.refl s
  · rename_i h hh
    exact ((((changedSlots_runs s c h hh).trans (raise_runs _ _)).trans
      (evaluateRenewalDue_runs _ c)).trans (evaluateHold_runs _ c)).trans (noteExamination_runs _)

theorem groupActivation_runs (s : State) (c : Ctx) : Runs s (s.groupActivation c) :=
  runs_foldl _ (fun t _ => runs_ite (fun _ => changeoverOnce_runs t _) fun _ => Runs.refl t) _ _

theorem changeoverFuel_runs : ∀ (n : Nat) (s : State) (c : Ctx), Runs s (State.changeoverFuel n s c)
  | 0, s, _ => Runs.refl s
  | n + 1, s, c =>
    runs_ite (fun _ => Runs.refl s) fun _ =>
      ((changeoverOnce_runs s c).trans (groupActivation_runs _ c)).trans
        (runs_foldl _ (fun t d => runs_ite (fun _ => changeoverFuel_runs n t d) fun _ => Runs.refl t) _ _)

theorem changeover_runs (s : State) (c : Ctx) : Runs s (s.changeover c) :=
  changeoverFuel_runs 16 s c

theorem headPromoted_runs (s : State) (c : Ctx) : Runs s (s.headPromoted c) := by
  have h : Runs s (if s.headTriggers c then s.changeover c else s) :=
    runs_ite (fun _ => changeover_runs s c) fun _ => Runs.refl s
  exact h.trans (runs_ite (fun _ => changeover_runs _ c) fun _ => Runs.refl _)

theorem exhaust_runs (s : State) (c : Ctx) (i : SlotId) : Runs s (s.exhaust c i) :=
  runs_ite (fun _ =>
    (runs_ite (fun _ => Runs.refl s) fun _ =>
      (updateSlot_runs _ _ _ (.inl ⟨rfl, rfl⟩)).trans (raise_runs _ _)).trans
      (changeover_runs _ c)) fun _ => Runs.refl s

theorem afterOpen_runs (s : State) (c : Ctx) (i : SlotId) : Runs s (s.afterOpen c i) :=
  ((exhaust_runs s c i).trans (evaluateRenewalDue_runs _ c)).trans (evaluateHold_runs _ c)

theorem activationReached_runs (s : State) (i : SlotId) : Runs s (s.activationReached i) :=
  (updateSlot_runs s i _ (.inl ⟨rfl, rfl⟩)).trans
    (runs_ite (fun _ => changeover_runs _ _) fun _ => Runs.refl _)

theorem expiryReached_runs (s : State) (i : SlotId) : Runs s (s.expiryReached i) := by
  refine (updateSlot_runs s i _ (.inl ⟨rfl, rfl⟩)).trans
    (runs_ite (fun _ => Runs.refl _) fun ha => runs_ite (fun _ => changeover_runs _ _) fun _ =>
      ((expiredSlots_runs _ _ _ ?_ ?_).trans (raise_runs _ _)).trans (evaluateHold_runs _ _))
  · rw [slot_updateSlot]
    split <;> exact Decidable.not_not.mp ha
  · rw [slot_updateSlot]
    split <;> rfl

theorem renewalMarkReached_runs (s : State) (i : SlotId) : Runs s (s.renewalMarkReached i) :=
  (updateSlot_runs s i _ (.inl ⟨rfl, rfl⟩)).trans
    (runs_ite (fun _ => Runs.refl _) fun _ => evaluateRenewalDue_runs _ _)

theorem drainReached_runs (s : State) (i : SlotId) : Runs s (s.drainReached i) :=
  updateSlot_runs _ _ _ (leaveService_same _ _)

theorem retireSlot_runs (s : State) (c : Ctx) (i : SlotId) : Runs s (s.retireSlot c i) := by
  have h1 := (updateSlot_runs s i KeySlot.leaveService (leaveService_same _ _)).trans
    (raise_runs _ (keyEvent .keyRetired c (s.slot i).generation 0 0))
  exact (h1.trans (runs_ite (fun _ => runs_ite (fun _ => evaluateRenewalDue_runs _ c) fun _ =>
    runs_ite (fun _ => headPromoted_runs _ c) fun _ => Runs.refl _) fun _ => Runs.refl _)).trans
      (evaluateHold_runs _ c)

theorem emptyAllSlots_runs (s : State) : Runs s s.emptyAllSlots :=
  (runs_foldl _ (fun _ _ => updateSlot_runs _ _ _ (.inr ⟨by decide, by decide⟩)) _ _).trans
    (runs_foldl _ (fun _ _ => updateContext_runs _ _ _) _ _)

theorem applySettings_runs (s : State) (c : Ctx) (new : Settings) :
    Runs s (s.applySettings c new) := by
  refine Relation.ReflTransGen.trans ?_ ((evaluateRenewalDue_runs _ c).trans (evaluateHold_runs _ c))
  refine (updateContext_runs s c fun r => { r with settings := new }).trans ?_
  split
  · exact Runs.refl _
  · exact runs_ite (fun _ => Runs.refl _) fun _ => setRenewalDueMark_runs _ _ _

/-! ### Parcels -/

theorem freeParcel_runs (s : State) (w : WindowIndex) (p : Nat) : Runs s (s.freeParcel w p) := by
  unfold State.freeParcel
  split
  · refine Relation.ReflTransGen.trans (Relation.ReflTransGen.trans ?_ (updateParcel_runs _ w p _))
      (runs_ite (fun _ => noteExamination_runs _) fun _ => Runs.refl _)
    split
    · exact Runs.refl s
    · exact updateSlot_runs _ _ _ (dropReference_same _)
  · exact Runs.refl s

theorem openParcel_runs {s t : State} {w : WindowIndex} {p : Nat} {c : Ctx} {o : Owner}
    (h : s.openParcel w p c o = some t) : Runs s t := by
  unfold State.openParcel at h
  split at h
  · exact absurd h (by simp)
  · rw [← Option.some.inj h]
    exact ((updateParcel_runs s w p _).trans (updateSlot_runs _ _ _ (.inl ⟨rfl, rfl⟩))).trans
      (afterOpen_runs _ _ _)

end Sys2Proof.Machine
end

