-- ==== Sys2Proof/Laws/MovesFaults.lean ====
section
/-! SUPPORT. What the fault unit, the composer, the streams, the timebase and the renewal unit can do, in small changes. -/

namespace Sys2Proof.Machine

/-! ### Fault unit -/

theorem attnLevel_map (g : FaultRecord → FaultRecord) (h : ∀ r, (g r).hostTaken = r.hostTaken)
    (q : List FaultRecord) : attnLevel (q.map g) = attnLevel q := by
  simp only [attnLevel, List.any_map]
  congr 1
  funext r
  simp [h]

theorem attnLevel_eraseP (q : List FaultRecord) :
    attnLevel (q.eraseP FaultRecord.leaves) = attnLevel q := by
  induction q with
  | nil => rfl
  | cons r q ih =>
    by_cases h : r.leaves = true
    · have ht : r.hostTaken = true := by
        simp only [FaultRecord.leaves, Bool.and_eq_true] at h
        exact h.1
      simp [List.eraseP_cons_of_pos, h, attnLevel, ht]
    · rw [List.eraseP_cons_of_neg (by simpa using h)]
      simp only [attnLevel, List.any_cons] at ih ⊢
      rw [ih]

theorem relabel_runs (s : State) (g : FaultRecord → FaultRecord)
    (h : ∀ r, (g r).hostTaken = r.hostTaken) :
    Runs s { s with fault := { s.fault with queue := s.fault.queue.map g } } :=
  (Calm.fault _ (.inl (by simp)) fun l => by rw [attnLevel_map g h]; exact l).runs

theorem setGather_runs (s : State) : Runs s s.setGather :=
  (Calm.composer _).runs

theorem countersChanged_runs (s : State) : Runs s s.countersChanged :=
  runs_same_queue rfl rfl rfl

theorem startPosting_runs (s : State) : Runs s s.startPosting :=
  runs_same_queue rfl rfl rfl

/-- The queue a record made now leaves. -/
theorem makeRecord_queue (s : State) (e : FaultEvent) :
    (s.makeRecord e).fault.queue = s.fault.queue ++ [s.newRecord e] := by
  unfold State.makeRecord
  split <;> split <;> rfl

theorem makeRecord_attn (s : State) (e : FaultEvent) :
    (s.makeRecord e).fault.attn = attnLevel (s.makeRecord e).fault.queue := by
  unfold State.makeRecord
  split <;> split <;> rfl

theorem makeRecord_eq (s : State) (e : FaultEvent) :
    s.makeRecord e = { s with
      fault := (s.makeRecord e).fault, composer := (s.makeRecord e).composer,
      transit := (s.makeRecord e).transit } := by
  unfold State.makeRecord
  split <;> split <;> rfl

theorem makeRecord_runs (s : State) (e : FaultEvent) (h : s.fault.queue.length < 8) :
    Runs s (s.makeRecord e) :=
  runs_of_fault (makeRecord_eq s e) (.inr (by rw [makeRecord_queue]; simp; omega))
    fun _ => makeRecord_attn s e

theorem loseEvent_runs (s : State) (e : FaultEvent) : Runs s (s.loseEvent e) :=
  runs_same_queue rfl rfl rfl

theorem takeEvent_runs (s : State) (e : FaultEvent) : Runs s (s.takeEvent e) :=
  runs_ite (fun h => makeRecord_runs s e (by simpa [State.queueHasRoom] using h)) fun _ =>
    loseEvent_runs s e

theorem setCounter_runs (s : State) (x : Fin 9) (k : RefusalCounter) : Runs s (s.setCounter x k) :=
  runs_same_queue rfl rfl rfl

theorem takeRefusal_runs (s : State) (x : Fin 9) (y : RefusalReason) (z : Option Nat) :
    Runs s (s.takeRefusal x y z) :=
  runs_ite (fun _ =>
    runs_ite (fun h => ((setCounter_runs s x _).trans
      (makeRecord_runs _ _ (of_decide_eq_true h))).trans (countersChanged_runs _))
      fun _ => ((setCounter_runs s x _).trans (loseEvent_runs _ _)).trans (countersChanged_runs _))
    fun _ => (setCounter_runs s x _).trans (countersChanged_runs _)

theorem freezeRecord_hostTaken (o v : Nat) (r : FaultRecord) :
    (freezeRecord o v r).hostTaken = r.hostTaken := by
  unfold freezeRecord
  split <;> rfl

theorem restartCounter_runs (s : State) (x : Fin 9) : Runs s (s.restartCounter x) := by
  unfold State.restartCounter
  refine Relation.ReflTransGen.trans (Relation.ReflTransGen.trans ?_ (setCounter_runs _ x _))
    (runs_ite (fun _ => Runs.refl _) fun _ => countersChanged_runs _)
  split
  · exact Runs.refl s
  · exact relabel_runs s _ (freezeRecord_hostTaken _ _)

theorem cutCounter_fault (s : State) (o : Nat) :
    (s.cutCounter o).fault.queue = s.fault.queue ∧ (s.cutCounter o).fault.attn = s.fault.attn ∧
      s.cutCounter o = { s with fault := (s.cutCounter o).fault } := by
  unfold State.cutCounter
  split <;> exact ⟨rfl, rfl, rfl⟩

theorem summarise_fault (s : State) :
    (s.summarise = s ∨
      (s.summarise.fault.queue = s.fault.queue ++ [s.newRecord s.summaryEvent] ∧
        s.summarise.fault.attn = attnLevel s.summarise.fault.queue)) ∧
      s.summarise = { s with
        fault := s.summarise.fault, composer := s.summarise.composer,
        transit := s.summarise.transit } := by
  unfold State.summarise
  split
  · exact ⟨.inl rfl, rfl⟩
  · refine ⟨.inr ⟨makeRecord_queue s _, makeRecord_attn s _⟩, ?_⟩
    rw [makeRecord_eq s s.summaryEvent]
    rfl

theorem removeNext_runs (s : State) : Runs s s.removeNext := by
  unfold State.removeNext
  split
  · exact Runs.refl s
  · rename_i r hr
    have hmem : r ∈ s.fault.queue := List.mem_of_find?_eq_some hr
    have hlv : r.leaves = true := List.find?_some hr
    let s1 : State := { s with fault := { s.fault with
      queue := s.fault.queue.eraseP FaultRecord.leaves } }
    have hlen : s1.fault.queue.length + 1 = s.fault.queue.length := by
      have h0 : 0 < s.fault.queue.length := List.length_pos_of_mem hmem
      show (s.fault.queue.eraseP FaultRecord.leaves).length + 1 = _
      rw [List.length_eraseP_of_mem hmem hlv]
      omega
    obtain ⟨hq, ha, he⟩ := cutCounter_fault s1 r.ordinal
    obtain ⟨hs, hse⟩ := summarise_fault (s1.cutCounter r.ordinal)
    show Runs s (s1.cutCounter r.ordinal).summarise
    refine runs_of_fault ?_ ?_ ?_
    · exact hse.trans (by rw [he])
    · left
      rcases hs with hs | ⟨hs, _⟩
      · rw [hs, hq]; omega
      · rw [hs, hq]; simp; omega
    · intro l
      rcases hs with hs | ⟨_, hs⟩
      · rw [hs, hq, ha]
        show s.fault.attn = attnLevel (s.fault.queue.eraseP FaultRecord.leaves)
        rw [attnLevel_eraseP]; exact l
      · exact hs

theorem leaveFuel_runs : ∀ (n : Nat) (s : State), Runs s (State.leaveFuel n s)
  | 0, s => Runs.refl s
  | n + 1, s => (removeNext_runs s).trans (leaveFuel_runs n _)

theorem leaveAll_runs (s : State) : Runs s s.leaveAll :=
  leaveFuel_runs _ s

theorem markOffice_runs (s : State) (l : List Nat) (m : OfficeMark) : Runs s (s.markOffice l m) :=
  relabel_runs s _ fun r => by split <;> rfl

theorem withdraw_hostTaken (r : FaultRecord) : r.withdraw.hostTaken = r.hostTaken := by
  unfold FaultRecord.withdraw
  split <;> rfl

theorem noticeWindowCleared_runs (s : State) : Runs s s.noticeWindowCleared :=
  (relabel_runs s _ withdraw_hostTaken).trans (leaveAll_runs _)

theorem issuePost_runs (s : State) : Runs s s.issuePost := by
  have h : Runs s { s with fault := { s.fault with
      posted := s.choosePost.map FaultRecord.ordinal, postPending := false } } :=
    runs_same_queue rfl rfl rfl
  exact h.trans (want_runs _ _ _ _ _)

theorem markTaken_runs (s : State) (o : Nat) : Runs s (s.markTaken o).evaluateAttn :=
  (Calm.fault (s := s) (s.markTaken o).evaluateAttn.fault
    (.inl (by simp [State.evaluateAttn, State.markTaken])) fun _ => rfl).runs

theorem takeReceipt_runs (s : State) : Runs s s.takeReceipt := by
  unfold State.takeReceipt
  refine runs_ite (fun _ => Runs.refl s) fun _ => runs_ite (fun _ => startPosting_runs s) fun _ => ?_
  split
  · exact Runs.refl s
  · exact ((markTaken_runs s _).trans (leaveAll_runs _)).trans (startPosting_runs _)

theorem postWritten_runs (s : State) (b : Bool) : Runs s (s.postWritten b) :=
  runs_same_queue rfl rfl rfl

theorem countersWritten_runs (s : State) (b : Bool) : Runs s (s.countersWritten b) :=
  runs_ite (fun _ => runs_same_queue rfl rfl rfl) fun _ => runs_same_queue rfl rfl rfl

theorem ageRecords_runs (s : State) : Runs s s.ageRecords :=
  relabel_runs s _ fun _ => rfl

/-! ### Composer -/

theorem setPhase_runs (s : State) (x : ComposerPhase) : Runs s (s.setPhase x) :=
  (Calm.composer _).runs

theorem startNotice_runs (s : State) (w : WindowIndex) (e : Window) (c : Ctx) :
    Runs s (s.startNotice w e c) := by
  unfold State.startNotice
  dsimp only
  split
  · exact Runs.refl s
  · rename_i t h
    exact ((((openParcel_runs h).trans (markOffice_runs _ _ _)).trans (setGather_runs _)).trans
      (Calm.composer _).runs).trans (wantAll_runs _ _)

theorem examine_runs (s : State) : Runs s s.examine := by
  unfold State.examine
  refine runs_ite (fun _ => Runs.refl s) fun _ => ?_
  split
  · exact Runs.refl s
  · split
    · exact Runs.refl s
    · refine runs_ite (fun _ => ?_) fun _ => Runs.refl s
      split
      · exact Runs.refl s
      · exact startNotice_runs _ _ _ _

theorem runExamination_runs (s : State) : Runs s s.runExamination :=
  runs_ite (fun _ => (Calm.transit _).runs.trans (examine_runs _)) fun _ => Runs.refl s

theorem takeReport_runs (s : State) (r : Report) : Runs s (s.takeReport r) := by
  cases r with
  | event e => exact takeEvent_runs s e
  | refusal x y z => exact takeRefusal_runs s x y z

theorem issueCounters_runs (s : State) : Runs s s.issueCounters := by
  unfold State.issueCounters
  exact runs_ite (fun _ => Relation.ReflTransGen.trans
    ((Calm.path (s := s) { s.path with
      unissued := s.path.unissued ++
        [{ purpose := .counters, ignored := false, address := countersAddress,
           access := wholeLine s.countersImage, orderPoint := s.path.nextSerial }] }
      (Nat.le_refl _) (.inl (Nat.le_refl _))).runs) (runs_same_queue rfl rfl rfl)) fun _ => Runs.refl s

theorem drainReports_runs (s : State) : Runs s s.drainReports :=
  (Calm.transit _).runs.trans
    (runs_foldl _ (fun t r => ((takeReport_runs t r).trans (issueCounters_runs _)).trans
      (runExamination_runs _)) _ _)

theorem settle_runs (s : State) : Runs s s.settle := by
  have h : Runs s (if s.mode = .running then s.drainReports.runExamination.drainReports else s) :=
    runs_ite (fun _ => ((drainReports_runs s).trans (runExamination_runs _)).trans
      (drainReports_runs _)) fun _ => Runs.refl s
  exact h.trans (Calm.transit _).runs

theorem noticeSealed_runs (s : State) : Runs s s.noticeSealed := by
  unfold State.noticeSealed
  split
  · exact Runs.refl s
  · exact ((((markOffice_runs s _ _).trans (leaveAll_runs _)).trans (countersChanged_runs _)).trans
      (Calm.composer _).runs).trans (noteExamination_runs _)

theorem noticeFailed_runs (s : State) (b : Bool) : Runs s (s.noticeFailed b) := by
  unfold State.noticeFailed
  split
  · exact Runs.refl s
  · exact ((markOffice_runs s _ _).trans (setGather_runs _)).trans (Calm.composer _).runs

theorem composerDefined_runs (s : State) : Runs s s.composerDefined :=
  (Calm.composer _).runs.trans (noteExamination_runs _)

theorem composerCleared_runs (s : State) : Runs s s.composerCleared :=
  (Calm.composer _).runs.trans (setGather_runs _)

theorem setGatherTime_runs (s : State) (n : Nat) : Runs s (s.setGatherTime n) :=
  ((Calm.composer _).runs.trans (setGather_runs _)).trans (noteExamination_runs _)

/-! ### Streams -/

theorem issueWaiting_runs (s : State) : Runs s s.issueWaiting := by
  refine (Calm.path (s := s) s.issueWaiting.path (Nat.le_refl _) ?_).runs
  have h : s.internalCount = internalOf s.path := rfl
  by_cases hb : internalOf s.path ≤ 16
  · right
    have := List.length_take_le (16 - s.internalCount) s.path.unissued
    simp only [internalOf, State.issueWaiting, List.length_append] at *
    omega
  · left
    have h0 : 16 - s.internalCount = 0 := by omega
    simp [internalOf, State.issueWaiting, h0]

theorem pump_runs (s : State) : Runs s s.pump :=
  runs_ite (fun _ => (issueCounters_runs s).trans (issueWaiting_runs _)) fun _ => Runs.refl s

theorem finish_runs (s : State) : Runs s s.finish :=
  (settle_runs s).trans (pump_runs _)

theorem grantPassing_runs (s : State) (p : Piece) (rest : List Piece)
    (h : s.path.passing = p :: rest) : Runs s (s.grantPassing p rest) := by
  refine (Calm.path (s := s) (s.grantPassing p rest).path ?_ (.inl ?_)).runs
  · simp [passingOf, State.grantPassing, h, List.filter_cons, Flight.isPassing]; omega
  · simp [internalOf, State.grantPassing, Flight.isPassing]

theorem grantInternal_runs (s : State) (r : InternalRequest) (rest : List InternalRequest)
    (h : s.path.internal = r :: rest) : Runs s (s.grantInternal r rest) := by
  refine (Calm.path (s := s) (s.grantInternal r rest).path ?_ (.inl ?_)).runs
  · simp [passingOf, State.grantInternal, Flight.isPassing]
  · simp [internalOf, State.grantInternal, h, Flight.isPassing]; omega

theorem grant_runs (s : State) : Runs s s.grant := by
  unfold State.grant
  split
  · exact Runs.refl s
  · rename_i p rest hp hi
    exact grantPassing_runs s p rest hp
  · rename_i r rest hp hi
    exact runs_ite (fun _ => grantInternal_runs s r rest hi) fun _ => Runs.refl s
  · rename_i p prest r rrest hp hi
    exact runs_ite (fun _ => grantPassing_runs s p prest hp) fun _ => grantInternal_runs s r rrest hi

/-- Granted accesses that are dropped from the front. -/
theorem dropFlight_runs (s : State) (f : Flight) (rest : List Flight)
    (h : s.path.flight = f :: rest) :
    Runs s { s with path := { s.path with flight := rest } } := by
  refine (Calm.path _ ?_ (.inl ?_)).runs
  · simp only [passingOf, h, List.filter_cons]; split <;> simp
  · simp only [internalOf, h, List.filter_cons]; split <;> simp

/-! ### Timebase -/

theorem setHeartbeatWatch_runs (s : State) (w : Watch) : Runs s (s.setHeartbeatWatch w) :=
  (Calm.time _).runs

theorem setLink_runs (s : State) (c : Ctx) (w : Watch) : Runs s (s.setLink c w) :=
  (Calm.time _).runs

theorem takeHeartbeat_runs (s : State) : Runs s s.takeHeartbeat :=
  runs_ite (fun _ => Runs.refl s) fun _ =>
    runs_ite (fun _ => (setHeartbeatWatch_runs s _).trans (raise_runs _ _)) fun _ =>
      setHeartbeatWatch_runs s _

theorem applyHeartbeatPeriod_runs (s : State) (n : Nat) : Runs s (s.applyHeartbeatPeriod n) :=
  runs_ite (fun _ => runs_ite (fun _ => (setHeartbeatWatch_runs s _).trans (raise_runs _ _))
    fun _ => setHeartbeatWatch_runs s _) fun _ => setHeartbeatWatch_runs s _

theorem heartbeatReached_runs (s : State) : Runs s s.heartbeatReached :=
  (setHeartbeatWatch_runs s _).trans (raise_runs _ _)

theorem linkAdmission_runs (s : State) (c : Ctx) : Runs s (s.linkAdmission c) :=
  runs_ite (fun _ => Runs.refl s) fun _ =>
    runs_ite (fun _ => ((setLink_runs s c _).trans (raise_runs _ _)).trans (noteExamination_runs _))
      fun _ => setLink_runs s c _

theorem applyLinkPeriod_runs (s : State) (c : Ctx) (n : Nat) : Runs s (s.applyLinkPeriod c n) :=
  runs_ite (fun _ => runs_ite (fun _ => ((setLink_runs s c _).trans (raise_runs _ _)).trans
    (noteExamination_runs _)) fun _ => setLink_runs s c _) fun _ => setLink_runs s c _

theorem linkSilenceReached_runs (s : State) (c : Ctx) : Runs s (s.linkSilenceReached c) :=
  ((setLink_runs s c _).trans (raise_runs _ _)).trans (noteExamination_runs _)

theorem gatherReached_runs (s : State) : Runs s s.gatherReached :=
  (Calm.composer _).runs.trans (noteExamination_runs _)

theorem retryReached_runs (s : State) : Runs s s.retryReached :=
  (Calm.composer _).runs.trans (noteExamination_runs _)

theorem actOnReport_runs (s : State) (m : MarkReport) : Runs s (s.actOnReport m) := by
  cases m
  · exact activationReached_runs s _
  · exact expiryReached_runs s _
  · exact renewalMarkReached_runs s _
  · exact drainReached_runs s _
  · exact gatherReached_runs s
  · exact retryReached_runs s
  · exact heartbeatReached_runs s
  · exact linkSilenceReached_runs s _

theorem deliver_runs (s : State) (m : MarkReport) : Runs s (s.deliver m) :=
  runs_ite (fun _ => (actOnReport_runs s m).trans (finish_runs _)) fun _ => Runs.refl s

theorem deliverAll_runs (s : State) : Runs s s.deliverAll :=
  runs_foldl _ deliver_runs _ _

theorem advanceTick_runs (s : State) : Runs s s.advanceTick :=
  (Calm.time _).runs.trans (ageRecords_runs _)

/-! ### Renewal unit -/

theorem startImport_runs (s : State) : Runs s s.startImport := by
  unfold State.startImport
  split
  · split
    · exact Runs.refl s
    · exact ((Calm.renewal _ _).runs.trans (want_runs _ _ _ _ _)).trans (want_runs _ _ _ _ _)
  · exact Runs.refl s

theorem joinImportList_runs (s : State) (x : ImportEntry) : Runs s (s.joinImportList x) :=
  (Calm.renewal _ _).runs.trans (startImport_runs _)

theorem endImport_runs (s : State) (x : ImportEntry) : Runs s (s.endImport x) :=
  ((freeParcel_runs s _ _).trans (Calm.renewal _ _).runs).trans (startImport_runs _)

theorem discardStaged_runs (s : State) (c : Ctx) (i : SlotId) : Runs s (s.discardStaged c i) :=
  runs_foldl _ (fun t _ => runs_ite (fun _ => Runs.refl t) fun _ =>
    updateSlot_runs t _ _ (leaveService_same _ _)) _ _

theorem stage_runs (s : State) (x : ImportEntry) (r : RenewalRecord) (c : Ctx)
    (m : ActivationMode) (i : SlotId) : Runs s (s.stage x r c m i) := by
  have h := ((updateSlot_runs s i (fun _ => s.stagedSlot c m r)
    (.inr ⟨by simp [State.stagedSlot], by simp [State.stagedSlot]⟩)).trans
    (updateContext_runs _ c fun row => { row with floor := r.generation })).trans
      (raise_runs _ (importEvent .keyAccepted x r.context r.generation r.checkValue i.val))
  unfold State.stage
  refine h.trans ?_
  dsimp only
  split
  · exact (discardStaged_runs _ c i).trans (changeover_runs _ c)
  · exact runs_ite (fun _ => headPromoted_runs _ c) fun _ => Runs.refl _

theorem importEnds_runs (s : State) (x : ImportEntry) (d : List Byte) :
    Runs s (s.importEnds x d) := by
  unfold State.importEnds
  refine Relation.ReflTransGen.trans ?_ (endImport_runs _ x)
  split
  · exact raise_runs _ _
  · exact stage_runs _ _ _ _ _ _

theorem importReadReturned_runs (b : Bool) (d : List Byte) (s : State) :
    Runs s (State.importReadReturned b d s) := by
  unfold State.importReadReturned
  split
  · exact runs_ite (fun _ => ((discard_runs s _).trans (raise_runs _ _)).trans (endImport_runs _ _))
      fun _ => runs_ite (fun _ => importEnds_runs s _ _) fun _ => (Calm.renewal _ _).runs
  · exact Runs.refl s

end Sys2Proof.Machine
end

