-- ==== Sys2Proof/Laws/MovesTag.lean ====
section
/-! SUPPORT. What the tag engine and the command unit can do, in small changes. -/

namespace Sys2Proof.Machine

/-! ### Tag engine -/

theorem runs_of_tag {s t : State} (h : t = { s with tag := t.tag })
    (bound : t.tag.queue.length ≤ s.tag.queue.length ∨ t.tag.queue.length ≤ 16) : Runs s t := by
  rw [h]
  exact (Calm.tag t.tag bound).runs

theorem setRunning_runs (s : State) (x : Option Running) : Runs s (s.setRunning x) :=
  runs_of_tag rfl (.inl (Nat.le_refl _))

theorem enqueue_runs (s : State) (j : Job) (h : s.tag.queue.length < 16) : Runs s (s.enqueue j) :=
  runs_of_tag rfl (.inr (by simp [State.enqueue]; omega))

theorem handOff_runs (s : State) (w : WindowIndex) (p n : Nat) : Runs s (s.handOff w p n) :=
  updateParcel_runs _ _ _ _

theorem giveEntry_runs (s : State) : Runs s s.giveEntry := by
  unfold State.giveEntry
  refine runs_ite (fun h => ?_) fun _ => Runs.refl s
  have hroom : s.tag.queue.length < 16 := of_decide_eq_true h
  split
  · rename_i rest _
    have h1 : Runs s { s with tag := { s.tag with deferred := rest } } :=
      runs_of_tag rfl (.inl (Nat.le_refl _))
    refine h1.trans (Relation.ReflTransGen.trans (updateParcel_runs _ _ _ _) (enqueue_runs _ _ ?_))
    rw [updateParcel_tag]
    exact hroom
  · split
    · exact Runs.refl s
    · refine Relation.ReflTransGen.trans (Relation.ReflTransGen.trans (Relation.ReflTransGen.trans
        (runs_of_tag (t := { s with tag := { s.tag with waitingSeal := none } }) rfl
          (.inl (Nat.le_refl _)))
        (handOff_runs _ _ _ _)) (setPhase_runs _ _)) (enqueue_runs _ _ ?_)
      rw [setPhase_tag, State.handOff, updateParcel_tag]
      exact hroom

theorem giveEntries_runs : ∀ (n : Nat) (s : State), Runs s (State.giveEntries n s)
  | 0, s => Runs.refl s
  | n + 1, s => (giveEntry_runs s).trans (giveEntries_runs n _)

theorem beginJob_runs (s : State) (j : Job) (e : Window) (r : ParcelRecord) :
    Runs s (s.beginJob j e r) := by
  unfold State.beginJob
  dsimp only
  split
  · exact (setRunning_runs _ _).trans (wantAll_runs _ _)
  · exact (setRunning_runs _ _).trans (wantAll_runs _ _)
  · exact (setRunning_runs _ _).trans (want_runs _ _ _ _ _)
  · exact (setRunning_runs _ _).trans (want_runs _ _ _ _ _)

theorem startNext_runs (s : State) : Runs s s.startNext := by
  unfold State.startNext
  split
  · rename_i j rest _ hq
    have h : Runs s { s with tag := { s.tag with queue := rest } } :=
      runs_of_tag rfl (.inl (by simp [hq]))
    dsimp only
    split
    · exact h.trans (beginJob_runs _ _ _ _)
    · exact h
  · exact Runs.refl s

theorem tagSettle_runs (s : State) : Runs s s.tagSettle :=
  ((giveEntries_runs 17 s).trans (startNext_runs _)).trans (giveEntries_runs 17 _)

theorem endJob_runs (s : State) : Runs s s.endJob :=
  ((discard_runs s _).trans (setRunning_runs _ _)).trans (tagSettle_runs _)

theorem offerCheck_runs (s : State) (w : WindowIndex) (p : Nat) : Runs s (s.offerCheck w p) :=
  runs_ite (fun h => (enqueue_runs s _ (of_decide_eq_true h)).trans (tagSettle_runs _)) fun _ =>
    (updateParcel_runs s w p _).trans (runs_of_tag rfl (.inl (Nat.le_refl _)))

theorem offerSeal_runs {s t : State} {w : WindowIndex} {p n : Nat}
    (h : s.offerSeal w p n = some t) : Runs s t := by
  unfold State.offerSeal at h
  split at h
  · rename_i hr
    rw [← Option.some.inj h]
    refine ((handOff_runs s w p n).trans (enqueue_runs _ _ ?_)).trans (tagSettle_runs _)
    rw [State.handOff, updateParcel_tag]
    exact of_decide_eq_true hr
  · exact absurd h (by simp)

theorem offerNotice_runs (s : State) (w : WindowIndex) (n : Notice) :
    Runs s (s.offerNotice w n) := by
  refine runs_ite (fun h => ?_) fun _ =>
    (setPhase_runs s _).trans (runs_of_tag rfl (.inl (Nat.le_refl _)))
  refine (((handOff_runs s w _ _).trans (setPhase_runs _ _)).trans (enqueue_runs _ _ ?_)).trans
    (tagSettle_runs _)
  rw [setPhase_tag, State.handOff, updateParcel_tag]
  exact of_decide_eq_true h

theorem endWithdrawn_runs (s : State) (j : Job) : Runs s (s.endWithdrawn j) :=
  runs_ite (fun _ => Runs.refl s) fun _ => (freeParcel_runs s _ _).trans (endJob_runs _)

theorem dropUnissued_runs (s : State) (l : List InternalRequest) :
    Runs s { s with path := { s.path with unissued := l } } :=
  (Calm.path (s := s) { s.path with unissued := l } (Nat.le_refl _) (.inl (Nat.le_refl _))).runs

theorem withdraw_runs (s : State) (j : Job) : Runs s (s.withdraw j) :=
  ((updateParcel_runs s _ _ _).trans (dropUnissued_runs _ _)).trans (endWithdrawn_runs _ _)

theorem jobResult_runs (s : State) (b : Bool)
    (f g : Running → Window → ParcelRecord → State → State)
    (hf : ∀ a e r t, Runs t (f a e r t)) (hg : ∀ a e r t, Runs t (g a e r t)) :
    Runs s (s.jobResult b f g) := by
  unfold State.jobResult
  split
  · exact Runs.refl s
  · split
    · exact runs_ite (fun _ => endWithdrawn_runs s _) fun _ =>
        runs_ite (fun _ => hf _ _ _ s) fun _ => hg _ _ _ s
    · exact Runs.refl s

theorem sealFailed_runs (a : Running) (e : Window) (r : ParcelRecord) (s : State) :
    Runs s (sealFailed a e r s) := by
  unfold sealFailed
  dsimp only
  exact ((runs_ite (fun _ => (freeParcel_runs s _ _).trans (noticeFailed_runs _ _)) fun _ =>
    updateParcel_runs s _ _ _).trans (raise_runs _ _)).trans (endJob_runs _)

theorem issueHeadLine_runs (s : State) (a : Running) (e : Window) (r : ParcelRecord)
    (d : List Byte) : Runs s (s.issueHeadLine a e r d) := by
  unfold State.issueHeadLine
  split
  · exact Runs.refl s
  · exact (setRunning_runs _ _).trans (want_runs _ _ _ _ _)

theorem sealReadback_runs (d : List Byte) (a : Running) (e : Window) (r : ParcelRecord)
    (s : State) : Runs s (sealReadback d a e r s) :=
  runs_ite (fun _ => issueHeadLine_runs s a e r _) fun _ => setRunning_runs s _

theorem sealCompleted_runs (a : Running) (e : Window) (r : ParcelRecord) (s : State) :
    Runs s (sealCompleted a e r s) := by
  unfold sealCompleted
  dsimp only
  exact ((updateParcel_runs s _ _ _).trans (runs_ite (fun _ => noticeSealed_runs _) fun _ =>
    Runs.refl _)).trans (endJob_runs _)

theorem rejectWith_runs (s : State) (j : Job) (e : FaultEvent) : Runs s (s.rejectWith j e) :=
  ((updateParcel_runs s _ _ _).trans (raise_runs _ _)).trans (endJob_runs _)

theorem checkFailed_runs (a : Running) (e : Window) (r : ParcelRecord) (s : State) :
    Runs s (checkFailed a e r s) :=
  rejectWith_runs _ _ _

theorem resolved_runs (s : State) (a : Running) (e : Window) (h : HeadLine) (i : SlotId) :
    Runs s (s.resolved a e h i) :=
  (((updateParcel_runs s _ _ _).trans (updateSlot_runs _ _ _ (.inl ⟨rfl, rfl⟩))).trans (setRunning_runs _ _)).trans
    (wantAll_runs _ _)

theorem checkHead_runs (d : List Byte) (a : Running) (e : Window) (r : ParcelRecord) (s : State) :
    Runs s (checkHead d a e r s) := by
  unfold checkHead
  dsimp only
  split
  · exact rejectWith_runs _ _ _
  · split
    · exact (updateParcel_runs s _ _ _).trans (rejectWith_runs _ _ _)
    · exact (updateParcel_runs s _ _ _).trans (resolved_runs _ _ _ _ _)

theorem admit_runs (s : State) (j : Job) (e : Window) (i : SlotId) (n : Nat) (l : List Nat) :
    Runs s (s.takeIn j e i n l) := by
  unfold State.takeIn
  dsimp only
  exact ((((updateSlot_runs s i _ (.inl ⟨rfl, rfl⟩)).trans (updateParcel_runs _ _ _ _)).trans
    (linkAdmission_runs _ _)).trans (runs_ite (fun _ => changeover_runs _ _) fun _ =>
      Runs.refl _)).trans (endJob_runs _)

theorem checkEnds_runs (s : State) (j : Job) (e : Window) (h : HeadLine) (i : SlotId)
    (d : List Byte) : Runs s (s.checkEnds j e h i d) := by
  unfold State.checkEnds
  dsimp only
  refine runs_ite (fun _ => rejectWith_runs _ _ _) fun _ => ?_
  split
  · exact rejectWith_runs _ _ _
  · exact rejectWith_runs _ _ _
  · exact admit_runs _ _ _ _ _ _

theorem checkPayload_runs (d : List Byte) (a : Running) (e : Window) (r : ParcelRecord)
    (s : State) : Runs s (checkPayload d a e r s) := by
  unfold checkPayload
  dsimp only
  refine runs_ite (fun _ => ?_) fun _ => setRunning_runs s _
  split
  · exact checkEnds_runs _ _ _ _ _ _
  · exact Runs.refl s

theorem renewalHead_runs (d : List Byte) (a : Running) (e : Window) (r : ParcelRecord) (s : State) :
    Runs s (renewalHead d a e r s) := by
  unfold renewalHead
  dsimp only
  split
  · exact rejectWith_runs _ _ _
  · exact ((updateParcel_runs s _ _ _).trans (setRunning_runs _ _)).trans (wantAll_runs _ _)

theorem renewalEnds_runs (s : State) (j : Job) (h : HeadLine) (d : List Byte) :
    Runs s (s.renewalEnds j h d) := by
  unfold State.renewalEnds
  dsimp only
  exact runs_ite (fun _ => rejectWith_runs _ _ _) fun _ =>
    ((updateParcel_runs s _ _ _).trans (joinImportList_runs _ _)).trans (endJob_runs _)

theorem renewalPayload_runs (d : List Byte) (a : Running) (e : Window) (r : ParcelRecord)
    (s : State) : Runs s (renewalPayload d a e r s) := by
  unfold renewalPayload
  dsimp only
  refine runs_ite (fun _ => ?_) fun _ => setRunning_runs s _
  split
  · exact renewalEnds_runs _ _ _ _
  · exact Runs.refl s

theorem noticeImageWritten_runs (b : Bool) (s : State) : Runs s (noticeImageWritten b s) := by
  unfold noticeImageWritten
  split
  · exact runs_ite (fun _ => (((noticeFailed_runs s true).trans (discard_runs _ _)).trans
      (freeParcel_runs _ _ _)).trans (raise_runs _ _)) fun _ =>
        runs_ite (fun _ => (Calm.composer _).runs.trans (offerNotice_runs _ _ _)) fun _ =>
          (Calm.composer _).runs
  · exact Runs.refl s

/-! ### Command unit -/

theorem finishCommand_runs (s : State) (x : Status) (d : Nat) : Runs s (s.finishCommand x d) :=
  (Calm.command _).runs.trans (want_runs _ _ _ _ _)

theorem latchCommand_runs (s : State) (x y : Nat) : Runs s (s.latchCommand x y) :=
  (Calm.command _).runs

theorem purgeJobs_runs (s : State) : Runs s s.purgeJobs := by
  unfold State.purgeJobs
  have h : Runs s { s with tag := { s.tag with
      queue := s.tag.queue.filter fun j => !j.kind.isSeal, waitingSeal := none } } :=
    runs_of_tag rfl (.inl (List.length_filter_le _ _))
  dsimp only
  split
  · exact h
  · exact h.trans (runs_ite (fun _ => (discard_runs _ _).trans (setRunning_runs _ _)) fun _ =>
      Runs.refl _)

theorem purgeNotice_runs (s : State) : Runs s s.purgeNotice := by
  unfold State.purgeNotice
  split
  · exact Runs.refl s
  · exact (noticeFailed_runs s _).trans (discard_runs _ _)

theorem purgeParcel_runs (w : WindowIndex) (s : State) (p : Nat) : Runs s (State.purgeParcel w s p) := by
  unfold State.purgeParcel
  split
  · exact Runs.refl s
  · exact runs_ite (fun _ => freeParcel_runs s w p) fun _ => Runs.refl s

theorem purgeWindow_runs (s : State) (w : WindowIndex) : Runs s (s.purgeWindow w) := by
  unfold State.purgeWindow
  split
  · exact Runs.refl s
  · exact runs_foldl _ (purgeParcel_runs w) _ _

theorem purge_runs (s : State) : Runs s s.purge :=
  (((((purgeJobs_runs s).trans (purgeNotice_runs _)).trans
    (runs_foldl _ purgeWindow_runs _ _)).trans (emptyAllSlots_runs _)).trans (raise_runs _ _)).trans
      (tagSettle_runs _)

theorem readArguments_runs (s : State) : Runs s s.readArguments :=
  (Calm.command _).runs.trans (want_runs _ _ _ _ _)

theorem takeRestart_runs (s : State) (n : Nat) : Runs s (s.takeRestart n) := by
  have h : Runs s { s with path := (s.takeRestart n).path } := by
    refine (Calm.path _ ?_ (.inl ?_)).runs
    · simp only [passingOf, State.takeRestart, passing_of_ignored]; exact Nat.le_refl _
    · simp only [internalOf, State.takeRestart, inner_of_ignored, List.length_nil]; omega
  exact (h.trans (Calm.command (s.takeRestart n).command).runs).trans (Calm.mode .restarting).runs

theorem takeCommand_runs (s : State) (x y : Nat) : Runs s (s.takeCommand x y) :=
  runs_ite (fun _ => Runs.refl s) fun _ => runs_ite (fun _ => Runs.refl s) fun _ =>
    runs_ite (fun _ => (latchCommand_runs s x y).trans (finishCommand_runs _ _ _)) fun _ =>
      runs_ite (fun _ => ((latchCommand_runs s x y).trans (purge_runs _)).trans
        (finishCommand_runs _ _ _)) fun _ =>
          runs_ite (fun _ => takeRestart_runs s y) fun _ =>
            (latchCommand_runs s x y).trans (readArguments_runs _)

theorem defineArguments_laidOut {ws : List Nat} {w : WindowIndex} {e : Window}
    (h : defineArguments ws = .inr (w, e)) : WindowLaidOut e := by
  unfold defineArguments at h
  dsimp only at h
  repeat' split at h
  all_goals cases h
  rename_i h1 h2 h3 _ _ _ _ _ _ _ _ _ h4 _
  exact ⟨Decidable.not_not.mp h2, by dsimp only; omega, by dsimp only; omega,
    by dsimp only; omega, List.length_replicate, fun x => h4 (.inl x), fun x => h4 (.inr x)⟩

theorem anyWindow_false {s : State} {test : Window → Bool} (h : s.anyWindow test = false)
    (v : WindowIndex) (f : Window) (hf : s.window v = some f) : test f = false := by
  have := List.any_eq_false.mp h v ((by decide : ∀ v : WindowIndex, v ∈ windowIds) v)
  rw [hf] at this
  exact Bool.eq_false_iff.mpr this

theorem defineRefusal_none {s : State} {w : WindowIndex} {e : Window}
    (h : s.defineRefusal w e = none) (v : WindowIndex) (f : Window) (hf : s.window v = some f) :
    (e.base + 2048 * e.count ≤ f.base ∨ f.base + 2048 * f.count ≤ e.base) ∧
      ¬(e.role = .notice ∧ f.role = .notice) ∧ ¬(e.role = .renewal ∧ f.role = .renewal) := by
  unfold State.defineRefusal at h
  split at h
  · cases h
  split at h
  · cases h
  split at h
  · cases h
  split at h
  · cases h
  split at h
  · cases h
  rename_i h3 h4 h5
  refine ⟨?_, fun x => h4 ⟨x.1, ?_⟩, fun x => h5 ⟨x.1, ?_⟩⟩
  · have := anyWindow_false (Bool.eq_false_iff.mpr h3) v f hf
    unfold Window.overlaps at this
    simp only [Bool.and_eq_false_iff, decide_eq_false_iff_not] at this
    omega
  · by_contra hc
    have := anyWindow_false (Bool.eq_false_iff.mpr hc) v f hf
    exact of_decide_eq_false this x.2
  · by_contra hc
    have := anyWindow_false (Bool.eq_false_iff.mpr hc) v f hf
    exact of_decide_eq_false this x.2

theorem defineWindow_runs (s : State) (w : WindowIndex) (e : Window) (he : WindowLaidOut e)
    (hr : s.defineRefusal w e = none) : Runs s (s.defineWindow w e) := by
  unfold State.defineWindow
  dsimp only
  exact ((Calm.window w (some e) fun h => laidOut_set he
    (fun v f hf _ => defineRefusal_none hr v f hf) h).runs.trans (restartCounter_runs _ _)).trans
    (runs_ite (fun _ => composerDefined_runs _) fun _ => Runs.refl _)

theorem clearWindow_runs (s : State) (w : WindowIndex) (e : Window) :
    Runs s (s.clearWindow w e) := by
  unfold State.clearWindow
  dsimp only
  exact (Calm.window w none laidOut_clear).runs.trans (runs_ite (fun _ => (noticeWindowCleared_runs _).trans
    (composerCleared_runs _)) fun _ => Runs.refl _)

theorem answerDefineWindow_runs (ws : List Nat) (s : State) :
    Runs s (answerDefineWindow ws s).state := by
  unfold answerDefineWindow
  split
  · exact Runs.refl s
  · split
    · exact Runs.refl s
    · rename_i _ _ _ ha _ hr
      exact defineWindow_runs _ _ _ (defineArguments_laidOut ha) hr

theorem answerClearWindow_runs (ws : List Nat) (s : State) :
    Runs s (answerClearWindow ws s).state := by
  unfold answerClearWindow
  split
  · exact Runs.refl s
  · split
    · exact Runs.refl s
    · split
      · exact Runs.refl s
      · exact clearWindow_runs _ _ _

theorem answerSeal_runs (ws : List Nat) (s : State) : Runs s (answerSeal ws s).state := by
  unfold answerSeal
  split
  · exact Runs.refl s
  · dsimp only
    split
    · exact Runs.refl s
    · split
      · exact Runs.refl s
      · split
        · exact Runs.refl s
        · rename_i h
          exact offerSeal_runs h

theorem releaseJob_runs {s t : State} {w : WindowIndex} {p : Nat} {r : ParcelRecord}
    (h : s.releaseJob w p r = some t) : Runs s t := by
  unfold State.releaseJob at h
  split at h
  · exact absurd h (by simp)
  · split at h
    · rw [← Option.some.inj h]
      have h1 : Runs s { s with tag := { s.tag with
          deferred := s.tag.deferred.filter fun d => decide (d ≠ (w, p)) } } :=
        runs_of_tag rfl (.inl (Nat.le_refl _))
      exact h1.trans (freeParcel_runs _ _ _)
    · split at h
      · rw [← Option.some.inj h]
        have h1 : Runs s { s with tag := { s.tag with
            queue := s.tag.queue.filter fun j => !j.isFor w p } } :=
          runs_of_tag rfl (.inl (List.length_filter_le _ _))
        exact (h1.trans (freeParcel_runs _ _ _)).trans (tagSettle_runs _)
      · split at h
        · exact absurd h (by simp)
        · split at h
          · rw [← Option.some.inj h]
            exact withdraw_runs _ _
          · exact absurd h (by simp)

theorem release_runs {s t : State} {w : WindowIndex} {e : Window} {p : Nat} {r : ParcelRecord}
    (h : s.release w e p r = some t) : Runs s t := by
  unfold State.release at h
  split at h
  · exact absurd h (by simp)
  · split at h
    · rw [← Option.some.inj h]; exact freeParcel_runs _ _ _
    · exact absurd h (by simp)
  · split at h
    · exact releaseJob_runs h
    · exact absurd h (by simp)
  · rw [← Option.some.inj h]; exact freeParcel_runs _ _ _
  · rw [← Option.some.inj h]; exact freeParcel_runs _ _ _
  · exact releaseJob_runs h
  · split at h
    · exact absurd h (by simp)
    · rw [← Option.some.inj h]; exact freeParcel_runs _ _ _
  · rw [← Option.some.inj h]; exact freeParcel_runs _ _ _

theorem answerRelease_runs (ws : List Nat) (s : State) : Runs s (answerRelease ws s).state := by
  unfold answerRelease
  split
  · exact Runs.refl s
  · split
    · exact Runs.refl s
    · rename_i h
      exact release_runs h

theorem answerSetContext_runs (ws : List Nat) (s : State) :
    Runs s (answerSetContext ws s).state := by
  unfold answerSetContext
  dsimp only
  split
  · exact Runs.refl s
  · split
    · exact Runs.refl s
    · exact ((applySettings_runs _ _ _).trans (applyLinkPeriod_runs _ _ _)).trans
        (noteExamination_runs _)

theorem answerSetGrouping_runs (ws : List Nat) (s : State) :
    Runs s (answerSetGrouping ws s).state := by
  unfold answerSetGrouping
  split
  · exact Runs.refl s
  · exact (Calm.grouping _).runs

theorem answerSetNotice_runs (ws : List Nat) (s : State) :
    Runs s (answerSetNotice ws s).state :=
  setGatherTime_runs _ _

theorem answerSetHeartbeat_runs (ws : List Nat) (s : State) :
    Runs s (answerSetHeartbeat ws s).state :=
  applyHeartbeatPeriod_runs _ _

theorem answerActivateNow_runs (ws : List Nat) (s : State) :
    Runs s (answerActivateNow ws s).state := by
  unfold answerActivateNow
  split
  · exact Runs.refl s
  · split
    · exact Runs.refl s
    · exact changeover_runs _ _

theorem answerRetire_runs (ws : List Nat) (s : State) : Runs s (answerRetire ws s).state := by
  unfold answerRetire
  dsimp only
  split
  · exact Runs.refl s
  · split
    · exact Runs.refl s
    · split
      · exact Runs.refl s
      · exact retireSlot_runs _ _ _

theorem takeSnapshot_runs (s : State) (v : View) : Runs s (s.takeSnapshot v) :=
  (Calm.command _).runs.trans (wantAll_runs _ _)

theorem snapshotView_runs {s : State} {ws : List Nat} {a : Answer}
    (h : s.snapshotView ws = .inl a) : a.state = s := by
  unfold State.snapshotView at h
  split at h
  · exact absurd h (by simp)
  · split at h
    · cases h; rfl
    · split at h
      · cases h; rfl
      · exact absurd h (by simp)
  · exact absurd h (by simp)
  · cases h; rfl

theorem snapshotWritten_runs (b : Bool) (s : State) : Runs s (snapshotWritten b s) := by
  unfold snapshotWritten
  split
  · exact Runs.refl s
  · exact runs_ite (fun _ => ((discard_runs s _).trans (raise_runs _ _)).trans
      (finishCommand_runs _ _ _)) fun _ => runs_ite (fun _ => finishCommand_runs s _ _) fun _ =>
        (runs_ite (fun _ => (Calm.command _).runs.trans (want_runs _ _ _ _ _)) fun _ =>
          (Calm.command _).runs)

end Sys2Proof.Machine
end

