-- ==== Sys2Proof/Laws/MovesStep.lean ====
section
/-! SUPPORT. What one command can do, said once: exec is made of small changes, placed pieces, completed accesses, resets and the fuse store's changes. -/

namespace Sys2Proof.Machine

/-- One change of state a command is made of; F lists the granted accesses that
may complete. -/
inductive Move (F : List Flight) (s : State) : State → Prop where
  | calm {t : State} (h : Calm s t) : Move F s t
  | place (p : Piece) (n : Nat) (room : passingOf s.path < 32) :
      Move F s { s with path := { s.path with
        passing := s.path.passing ++ [p], nextSerial := n } }
  | complete (f : Flight) (e : Bool) (granted : f ∈ F) :
      Move F s (s.complete f.address f.access e)
  | startUp (cause : Cause) : Move F s (s.startUp cause)
  | fuses (f : FuseStore) : Move F s { s with fuses := f }
  | copy (r : RenewalUnit) : Move F s { s with renewal := r }

/-- Any number of changes. -/
abbrev Moves (F : List Flight) : State → State → Prop :=
  Relation.ReflTransGen (Move F)

theorem Moves.refl {F : List Flight} (s : State) : Moves F s s :=
  Relation.ReflTransGen.refl

theorem Move.moves {F : List Flight} {s t : State} (h : Move F s t) : Moves F s t :=
  Relation.ReflTransGen.single h

theorem Runs.moves {F : List Flight} {s t : State} (r : Runs s t) : Moves F s t := by
  induction r with
  | refl => exact Moves.refl s
  | tail _ c ih => exact ih.tail (Move.calm c)

/-- What every change keeps, a command keeps. -/
theorem Moves.keeps {F : List Flight} {P : State → Prop} (h : ∀ s t, P s → Move F s t → P t)
    {s t : State} (r : Moves F s t) : P s → P t := by
  induction r with
  | refl => exact id
  | tail _ c ih => exact fun p => h _ _ (ih p) c

theorem moves_ite {F : List Flight} {c : Prop} [Decidable c] {s a b : State}
    (ha : c → Moves F s a) (hb : ¬c → Moves F s b) : Moves F s (if c then a else b) := by
  by_cases h : c
  · rw [if_pos h]; exact ha h
  · rw [if_neg h]; exact hb h

/-! ### What small changes leave -/

theorem calm_path {s t : State} (h : Calm s t) : passingOf t.path ≤ passingOf s.path := by
  cases h with
  | slot i f _ => rw [updateSlot_path]
  | path p hp _ => exact hp
  | _ => exact Nat.le_refl _

theorem runs_passing {s t : State} (r : Runs s t) : passingOf t.path ≤ passingOf s.path :=
  r.keeps (P := fun u => passingOf u.path ≤ passingOf s.path)
    (fun _ _ p c => (calm_path c).trans p) (Nat.le_refl _)

theorem calm_mem {s t : State} (h : Calm s t) : t.mem = s.mem := by
  cases h with
  | slot i f _ => exact updateSlot_mem _ _ _
  | _ => rfl

/-- Small changes write no memory. -/
theorem runs_mem {s t : State} (r : Runs s t) : t.mem = s.mem :=
  r.leaves State.mem fun _ _ => calm_mem

/-- Small changes leave the command queue. -/
theorem runs_pending {s t : State} (r : Runs s t) : t.pending = s.pending :=
  r.leaves State.pending fun s t h => by
    cases h with
    | slot i f _ => exact updateSlot_pending _ _ _
    | _ => rfl

/-- Small changes leave the fuse store. -/
theorem runs_fuses {s t : State} (r : Runs s t) : t.fuses = s.fuses :=
  r.leaves State.fuses fun s t h => by
    cases h with
    | slot i f _ => exact updateSlot_fuses _ _ _
    | _ => rfl

/-- Small changes leave the count of failed writes. -/
theorem runs_freeCount {s t : State} (r : Runs s t) : t.freeCount = s.freeCount :=
  r.leaves State.freeCount fun s t h => by
    cases h with
    | slot i f _ => exact updateSlot_freeCount _ _ _
    | _ => rfl

/-- Small changes leave the renewal unit's copy of the fuse store. -/
theorem runs_copy {s t : State} (r : Runs s t) :
    (t.renewal.storeId, t.renewal.wrapKey, t.renewal.provisioned, t.renewal.fuseReadDone) =
      (s.renewal.storeId, s.renewal.wrapKey, s.renewal.provisioned, s.renewal.fuseReadDone) :=
  r.leaves (fun u => (u.renewal.storeId, u.renewal.wrapKey, u.renewal.provisioned,
    u.renewal.fuseReadDone)) fun s t h => by
    cases h with
    | slot i f _ => simp only [updateSlot_renewal]
    | _ => rfl

/-! ### Upstream side -/

/-- Changes that place at most n pieces. -/
def Takes (F : List Flight) (n : Nat) (s t : State) : Prop :=
  Moves F s t ∧ passingOf t.path ≤ passingOf s.path + n

theorem Runs.takes {F : List Flight} {s t : State} (r : Runs s t) (n : Nat) : Takes F n s t :=
  ⟨r.moves, (runs_passing r).trans (Nat.le_add_right _ _)⟩

theorem Takes.before {F : List Flight} {n : Nat} {s t u : State} (r : Runs s t) (h : Takes F n t u) : Takes F n s u :=
  ⟨r.moves.trans h.1, h.2.trans (Nat.add_le_add_right (runs_passing r) n)⟩

theorem Takes.after {F : List Flight} {n : Nat} {s t u : State} (h : Takes F n s t) (r : Runs t u) : Takes F n s u :=
  ⟨h.1.trans r.moves, (runs_passing r).trans h.2⟩

theorem place_takes {F : List Flight} (s : State) (a : Nat) (x : Access) (k : List Byte)
    (room : passingOf s.path < 32) : Takes F 1 s (s.place a x k).1 := by
  unfold State.place
  split
  · exact (Runs.refl s).takes 1
  · exact ⟨(Move.place _ _ room).moves, by simp [passingOf]; omega⟩

theorem takeWindowPiece_takes {F : List Flight} (s : State) (side : Alias) (w : WindowIndex) (e : Window) (p : Nat)
    (r : ParcelRecord) (c : Cut) (room : passingOf s.path < 32) :
    Takes F 1 s (s.takeWindowPiece side w e p r c).1 := by
  unfold State.takeWindowPiece
  dsimp only
  split
  · exact (reportRefusal_runs _ _ _ _).takes 1
  · exact place_takes _ _ _ _ room
  · split
    · exact (reportRefusal_runs _ _ _ _).takes 1
    · rename_i h
      have ho := openParcel_runs h
      exact Takes.before ho (place_takes _ _ _ _ ((runs_passing ho).trans_lt room))
  · exact place_takes _ _ _ _ room
  · exact place_takes _ _ _ _ room
  · exact (place_takes _ _ _ _ room).after (freeParcel_runs _ _ _)
  · exact (place_takes _ _ _ _ room).after (updateParcel_runs _ _ _ _)
  · exact (place_takes _ _ _ _ room).after
      ((updateParcel_runs _ _ _ _).trans (offerCheck_runs _ _ _))

theorem controlEffects_runs (s : State) (o : Nat) (b : List (Option Byte)) :
    Runs s (s.controlEffects o b) := by
  unfold State.controlEffects
  have h : Runs s (if enables inHeartbeatWord o b ∧ s.mode = .running then s.takeHeartbeat else s) :=
    runs_ite (fun _ => takeHeartbeat_runs s) fun _ => Runs.refl s
  dsimp only
  split
  · exact h
  · exact h.trans (takeCommand_runs _ _ _)

theorem placedControl_takes {F : List Flight} (s : State) (a o : Nat) (x : Access) (b : List (Option Byte))
    (room : passingOf s.path < 32) : Takes F 1 s ((s.place a x []).1.controlEffects o b) :=
  Takes.after (place_takes s a x [] room) (controlEffects_runs _ o b)

theorem takeControlPiece_takes {F : List Flight} (s : State) (side : Alias) (c : Cut)
    (room : passingOf s.path < 32) : Takes F 1 s (s.takeControlPiece side c).1 := by
  unfold State.takeControlPiece
  split
  · exact (reportRefusal_runs _ _ _ _).takes 1
  · exact place_takes _ _ _ _ room
  · dsimp only
    split
    · exact (reportRefusal_runs _ _ _ _).takes 1
    · generalize c.address - controlBase = o
      exact placedControl_takes s c.address o c.access _ room

theorem takePiece_takes {F : List Flight} (s : State) (side : Alias) (c : Cut) (room : passingOf s.path < 32) :
    Takes F 1 s (s.takePiece side c).1 := by
  unfold State.takePiece
  split
  · exact takeControlPiece_takes _ _ _ room
  · split
    · exact place_takes _ _ _ _ room
    · split
      · exact takeWindowPiece_takes _ _ _ _ _ _ _ room
      · exact place_takes _ _ _ _ room

theorem takePieces_moves {F : List Flight} : ∀ (cuts : List Cut) (s : State) (side : Alias),
    passingOf s.path + cuts.length ≤ 32 → Moves F s (s.takePieces side cuts).1
  | [], s, _, _ => Moves.refl s
  | c :: rest, s, side, h => by
    simp only [List.length_cons] at h
    have h1 := takePiece_takes (F := F) s side c (by omega)
    exact h1.1.trans (takePieces_moves rest _ side (by have := h1.2; omega))

theorem refuseWhole_runs (s : State) (y : RefusalReason) (cuts : List Cut) :
    Runs s (s.refuseWhole y cuts).1 :=
  runs_foldl _ (fun _ _ => reportRefusal_runs _ _ _ _) _ _

theorem outstanding_runs (s : State) (l : List Taken) :
    Runs s { s with path := { s.path with outstanding := l } } :=
  (Calm.path (s := s) { s.path with outstanding := l } (Nat.le_refl _) (.inl (Nat.le_refl _))).runs

theorem port_runs (s : State) (l : List Request) :
    Runs s { s with path := { s.path with port := l } } :=
  (Calm.path (s := s) { s.path with port := l } (Nat.le_refl _) (.inl (Nat.le_refl _))).runs

theorem pieces_length (r : Request) : (Request.pieces r).length = Request.pieceCount r := by
  simp [Request.pieces]

theorem takeRequest_moves {F : List Flight} (s : State) (r : Request) (h : s.roomFor r = true) :
    Moves F s (s.takeRequest r) := by
  unfold State.takeRequest
  refine Relation.ReflTransGen.trans ?_ (outstanding_runs _ _).moves
  split
  · rename_i hw _
    refine takePieces_moves _ _ _ ?_
    simp only [State.roomFor, hw, Option.isSome_none, Bool.false_or, decide_eq_true_eq] at h
    rw [pieces_length]
    exact h
  · exact (refuseWhole_runs _ _ _).moves
  · exact (refuseWhole_runs _ _ _).moves

theorem answerOne_runs (s : State) (t : Taken) (rest : List Taken) :
    Runs s (s.answerOne t rest) := by
  have h : Runs s { s with
      path := { s.path with outstanding := rest }, responses := s.responses ++ [t.response] } :=
    (outstanding_runs s rest).trans (Calm.responses _).runs
  exact runs_ite (fun _ => (h.trans (takeReceipt_runs _)).trans (issueCounters_runs _)) fun _ => h

theorem answerAll_runs : ∀ (n : Nat) (s : State), Runs s (State.answerAll n s)
  | 0, s => Runs.refl s
  | n + 1, s => by
    unfold State.answerAll
    split
    · exact Runs.refl s
    · exact runs_ite (fun _ => (answerOne_runs _ _ _).trans (answerAll_runs n _)) fun _ => Runs.refl s

theorem answer_runs (s : State) : Runs s s.answer :=
  (answerAll_runs _ s).trans (finish_runs _)

theorem takeWaitingFuel_moves {F : List Flight} : ∀ (n : Nat) (s : State), Moves F s (State.takeWaitingFuel n s)
  | 0, s => Moves.refl s
  | n + 1, s => by
    unfold State.takeWaitingFuel
    split
    · exact Moves.refl s
    · rename_i r rest _
      refine moves_ite (fun h => ?_) fun _ => Moves.refl s
      have hroom : State.roomFor { s with path := { s.path with port := rest } } r = true := by
        simp only [State.takes, Bool.and_eq_true] at h
        exact h.1.2
      exact (((port_runs s rest).moves.trans (takeRequest_moves _ r hroom)).trans
        (Runs.moves ((finish_runs _).trans (answer_runs _)))).trans (takeWaitingFuel_moves n _)

theorem takeWaiting_moves {F : List Flight} (s : State) : Moves F s s.takeWaiting :=
  takeWaitingFuel_moves _ s

theorem arrive_moves {F : List Flight} (s : State) (r : Request) : Moves F s (s.arrive r) :=
  (port_runs s _).moves.trans (takeWaiting_moves _)

theorem passing_lands {F : List Flight} {p : Piece} (h : .passing p ∈ F) (s : State) (b : Bool) :
    Moves F s (s.complete p.address p.access b) :=
  (Move.complete (s := s) (.passing p) b h).moves

theorem internal_lands {F : List Flight} {r : InternalRequest} (h : .internal r ∈ F) (s : State)
    (b : Bool) : Moves F s (s.complete r.address r.access b) :=
  (Move.complete (s := s) (.internal r) b h).moves

theorem passingDone_moves (s : State) (p : Piece) (rest : List Flight) (b : Bool)
    (h : s.path.flight = .passing p :: rest) :
    Moves s.path.flight s (s.passingDone p rest b) := by
  have hp : .passing p ∈ s.path.flight := by rw [h]; exact List.mem_cons_self
  generalize s.path.flight = F at hp
  unfold State.passingDone
  exact (((Runs.moves ((dropFlight_runs s _ rest h).trans (outstanding_runs _ _))).trans
    (passing_lands hp _ b)).trans (answer_runs _).moves).trans (takeWaiting_moves _)

/-- What the completion of an internal request gives (R54): inversion. -/
theorem onCompletion_moves {s t : State} {d : Purpose → Bool} {b : Bool}
    {act : List Byte → State → State} (ha : ∀ l u, Moves s.path.flight u (act l u))
    (h : s.onCompletion d b act = .next t) : Moves s.path.flight s t := by
  unfold State.onCompletion at h
  split at h
  · cases h; exact Moves.refl s
  · rename_i r data s1 hc
    have h1 : Moves s.path.flight s s1 := by
      unfold State.completeInternal at hc
      split at hc
      · rename_i r' rest hf
        have hr : .internal r' ∈ s.path.flight := by rw [hf]; exact List.mem_cons_self
        split at hc
        · have hc' := Option.some.inj hc
          have hs : State.complete _ _ _ _ = s1 := congrArg (fun x => x.2.2) hc'
          rw [← hs]
          exact (dropFlight_runs s _ rest hf).moves.trans (internal_lands hr _ b)
        · exact absurd hc (by simp)
      · exact absurd hc (by simp)
    have ht : (if r.ignored then s1 else (act data s1).issueCounters).finish = t := by injection h
    rw [← ht]
    exact (h1.trans (moves_ite (fun _ => Moves.refl s1) fun _ =>
      (ha data s1).trans (issueCounters_runs _).moves)).trans
      (finish_runs _).moves

theorem onCompletion_next (s : State) (d : Purpose → Bool) (b : Bool)
    (act : List Byte → State → State) : ∃ t, s.onCompletion d b act = .next t := by
  unfold State.onCompletion
  split <;> exact ⟨_, rfl⟩

theorem perform_moves {F : List Flight} {s t : State} {n : Nat} {act : List Nat → State → Answer}
    (ha : ∀ l u, Runs u (act l u).state) (h : s.perform n act = .next t) : Moves F s t := by
  unfold State.perform at h
  split at h
  · cases h; exact Moves.refl s
  · rename_i r rest hr
    have hf : s.path.flight = .internal r :: rest := by
      unfold State.argumentReturns at hr
      split at hr
      · rename_i r' rest' hf
        split at hr
        · have hc := Prod.mk.inj (Option.some.inj hr)
          rw [hf, hc.1, hc.2]
        · exact absurd hr (by simp)
      · exact absurd hr (by simp)
    injection h with h
    rw [← h]
    exact Runs.moves ((((((dropFlight_runs s _ rest hf).trans (Calm.command _).runs).trans
      (ha _ _)).trans (finishCommand_runs _ _ _)).trans (issueCounters_runs _)).trans (finish_runs _))

/-! ### Resets -/

theorem runFlights_moves {F : List Flight} : ∀ (l : List Flight) (s : State) (b : List Bool),
    l ⊆ F → Moves F s (s.runFlights l b)
  | [], s, _, _ => Moves.refl s
  | f :: rest, s, b, h =>
    (Move.complete (s := s) f (b.headD false) (h List.mem_cons_self)).moves.trans
      (runFlights_moves rest _ b.tail fun _ hx => h (List.mem_cons_of_mem f hx))

theorem dropWork_moves (s : State) (b : List Bool) : Moves s.path.flight s (s.dropWork b) := by
  have h1 := runFlights_moves s.path.flight s b (List.Subset.refl _)
  have h2 : Runs (s.runFlights s.path.flight b) { s.runFlights s.path.flight b with
      path := { (s.runFlights s.path.flight b).path with
        outstanding := [], passing := [], internal := [], unissued := [], flight := [] } } :=
    (Calm.path _ (Nat.zero_le _) (.inl (Nat.zero_le _))).runs
  exact (h1.trans h2.moves).trans (Calm.responses _).runs.moves

theorem clearHold_runs (s : State) : Runs s s.clearHold :=
  (Calm.path (s := s) s.clearHold.path (Nat.le_refl _) (.inl (Nat.le_refl _))).runs

theorem completeStarted_hostTaken (b : Bool) (r : FaultRecord) :
    (completeStarted b r).hostTaken = r.hostTaken := by
  unfold completeStarted
  split <;> rfl

theorem fuseRead_moves {F : List Flight} (s : State) : Moves F s s.fuseRead := by
  have h := (Move.copy (F := F) (s := s) { s.renewal with
    storeId := s.fuses.storeId.toNat, wrapKey := s.fuses.wrapKey,
    provisioned := decide (s.fuses.storeId ≠ 0), fuseReadDone := true }).moves.trans
      (relabel_runs _ _ (completeStarted_hostTaken (decide (s.fuses.storeId ≠ 0)))).moves
  exact h.trans (Runs.moves (((setGather_runs _).trans (issuePost_runs _)).trans (clearHold_runs _)))

theorem startUpAfterRestart_moves {F : List Flight} (s : State) : Moves F s s.startUpAfterRestart := by
  have h := (Calm.command (s := s.startUp .restart) s.startUpAfterRestart.command).runs
  exact (Move.startUp .restart).moves.trans (Runs.moves (h.trans
    (Calm.path (s := { s.startUp .restart with command := s.startUpAfterRestart.command })
      s.startUpAfterRestart.path (Nat.le_refl _) (.inl (Nat.le_refl _))).runs))

end Sys2Proof.Machine
end

