-- ==== Sys2Proof/Laws/MovesExec.lean ====
section
/-! SUPPORT. exec and step are made of the changes of Laws/MovesStep.lean, command by command. -/

namespace Sys2Proof.Machine

theorem outcome_moves {s t u : State}
    (h : Host.Outcome.next (φ := Fault) (ρ := Refusal) u = .next t)
    (m : Moves s.path.flight s u) :
    Moves s.path.flight s t := by
  injection h with h
  rw [← h]
  exact m

theorem mode_runs (s : State) (m : PartMode) : Runs s { s with mode := m } :=
  (Calm.mode (s := s) m).runs

theorem held_moves (s : State) (m : PartMode) (b : List Bool) :
    Moves s.path.flight s { s.dropWork b with mode := m } :=
  (dropWork_moves s b).trans (Runs.moves (mode_runs (s.dropWork b) m))

theorem execPowerOn_moves {s t : State} (h : execPowerOn s = .next t) : Moves s.path.flight s t :=
  outcome_moves h ((Move.startUp .powerOn).moves.trans
    (Runs.moves (port_runs (s.startUp .powerOn) [])))

theorem execResetLineAsserted_moves {b : List Bool} {s t : State}
    (h : execResetLineAsserted b s = .next t) : Moves s.path.flight s t := by
  unfold execResetLineAsserted at h
  split at h
  · exact outcome_moves h (held_moves s _ b)
  · exact outcome_moves h (held_moves s _ b)
  · exact outcome_moves h (Runs.moves (mode_runs s _))
  · exact outcome_moves h (Moves.refl s)

theorem execResetLineReleased_moves {s t : State} (h : execResetLineReleased s = .next t) :
    Moves s.path.flight s t := by
  unfold execResetLineReleased at h
  split at h
  · exact outcome_moves h (Move.startUp .resetLine).moves
  · exact outcome_moves h (Moves.refl s)

theorem execBoundaryScanSelected_moves {b : List Bool} {s t : State}
    (h : execBoundaryScanSelected b s = .next t) : Moves s.path.flight s t := by
  unfold execBoundaryScanSelected at h
  split at h
  · exact outcome_moves h (held_moves s _ b)
  · exact outcome_moves h (held_moves s _ b)
  · exact outcome_moves h (Moves.refl s)
  · exact outcome_moves h (Moves.refl s)

theorem execFuseProgramming_moves {p : FuseProgram} {s t : State}
    (h : execFuseProgramming p s = .next t) : Moves s.path.flight s t :=
  outcome_moves h (Move.fuses (s := s) _).moves

theorem execRootFuseStoreRead_moves {s t : State} (h : execRootFuseStoreRead s = .next t) :
    Moves s.path.flight s t := by
  unfold execRootFuseStoreRead at h
  split at h
  · exact outcome_moves h (((fuseRead_moves s).trans (Runs.moves (finish_runs _))).trans
      (takeWaiting_moves _))
  · exact outcome_moves h (Moves.refl s)

theorem startUpDone_runs (s : State) :
    Runs s { s with path := { s.path with startUpResultDone := true } } :=
  (Calm.path (s := s) { s.path with startUpResultDone := true } (Nat.le_refl _)
    (.inl (Nat.le_refl _))).runs

theorem execStartUpResultWriteDone_moves {b : Bool} {s t : State}
    (h : execStartUpResultWriteDone b s = .next t) : Moves s.path.flight s t :=
  onCompletion_moves (fun _ u => (Runs.moves ((startUpDone_runs u).trans (clearHold_runs _))).trans
    (takeWaiting_moves _)) h

theorem execRestartReset_moves {s t : State} (h : execRestartReset s = .next t) : Moves s.path.flight s t := by
  unfold execRestartReset at h
  split at h
  · exact outcome_moves h (startUpAfterRestart_moves s)
  · exact outcome_moves h (Moves.refl s)

theorem execUpstreamRequest_moves {r : Request} {s t : State}
    (h : execUpstreamRequest r s = .next t) : Moves s.path.flight s t := by
  unfold execUpstreamRequest at h
  split at h
  · exact outcome_moves h (arrive_moves s r)
  · cases h

theorem execControlWindowWrite_moves {o : Nat} {b : List (Option Byte)} {s t : State}
    (h : execControlWindowWrite o b s = .next t) : Moves s.path.flight s t := by
  unfold execControlWindowWrite at h
  split at h
  · exact outcome_moves h (arrive_moves s _)
  · cases h

theorem execPassingPieceDone_moves {b : Bool} {s t : State}
    (h : execPassingPieceDone b s = .next t) : Moves s.path.flight s t := by
  unfold execPassingPieceDone at h
  split at h
  · rename_i p rest hf
    exact outcome_moves h (passingDone_moves s p rest b hf)
  · exact outcome_moves h (Moves.refl s)

theorem execDownstreamGrant_moves {s t : State} (h : execDownstreamGrant s = .next t) :
    Moves s.path.flight s t := by
  unfold execDownstreamGrant at h
  split at h
  · exact outcome_moves h (Moves.refl s)
  · exact outcome_moves h (Runs.moves (grant_runs s))

theorem execReceipt_moves {s t : State} (h : execReceipt s = .next t) : Moves s.path.flight s t := by
  unfold execReceipt at h
  split at h
  · exact outcome_moves h (Runs.moves (((takeReceipt_runs s).trans (issueCounters_runs _)).trans
      (finish_runs _)))
  · exact outcome_moves h (Moves.refl s)

theorem execPostWriteIssue_moves {s t : State} (h : execPostWriteIssue s = .next t) :
    Moves s.path.flight s t := by
  unfold execPostWriteIssue at h
  split at h
  · exact outcome_moves h (Runs.moves ((issuePost_runs s).trans (finish_runs _)))
  · exact outcome_moves h (Moves.refl s)

theorem execPostWriteDone_moves {b : Bool} {s t : State} (h : execPostWriteDone b s = .next t) :
    Moves s.path.flight s t :=
  onCompletion_moves (fun _ u => (Runs.moves ((postWritten_runs u b).trans (finish_runs _))).trans
    (takeWaiting_moves _)) h

theorem execCountersWriteDone_moves {b : Bool} {s t : State}
    (h : execCountersWriteDone b s = .next t) : Moves s.path.flight s t :=
  onCompletion_moves (fun _ u => Runs.moves (countersWritten_runs u b)) h

theorem execTick_moves {s t : State} (h : execTick s = .next t) : Moves s.path.flight s t := by
  unfold execTick at h
  split at h
  · exact outcome_moves h (Runs.moves ((deliverAll_runs s).trans (advanceTick_runs _)))
  · exact outcome_moves h (Moves.refl s)

theorem execHeartbeat_moves {s t : State} (h : execHeartbeat s = .next t) : Moves s.path.flight s t := by
  unfold execHeartbeat at h
  split at h
  · exact outcome_moves h (Runs.moves ((takeHeartbeat_runs s).trans (finish_runs _)))
  · exact outcome_moves h (Moves.refl s)

theorem execTaken_moves {x y : Nat} {s t : State}
    (h : Host.Outcome.next (φ := Fault) (ρ := Refusal) (s.takeCommand x y).finish = .next t) :
    Moves s.path.flight s t :=
  outcome_moves h (Runs.moves ((takeCommand_runs s x y).trans (finish_runs _)))

theorem execDeliver_moves {m : MarkReport} {s t : State}
    (h : Host.Outcome.next (φ := Fault) (ρ := Refusal) (s.deliver m) = .next t) : Moves s.path.flight s t :=
  outcome_moves h (Runs.moves (deliver_runs s m))

theorem execSnapshot_moves {s t : State} (h : execSnapshot s = .next t) : Moves s.path.flight s t := by
  unfold execSnapshot at h
  split at h
  · exact outcome_moves h (Moves.refl s)
  · rename_i r rest hr
    have hf : s.path.flight = .internal r :: rest := by
      unfold State.argumentReturns at hr
      split at hr
      · rename_i r' rest' hf
        split at hr
        · have hc := Prod.mk.inj (Option.some.inj hr)
          rw [hf, hc.1, hc.2]
        · exact absurd hr (by simp)
      · exact absurd hr (by simp)
    have h1 : ∀ ws, Runs s { s with
        path := { s.path with flight := rest },
        command := { s.command with arguments := ws } } := fun ws =>
      (dropFlight_runs s _ rest hf).trans
        (Calm.command (s := { s with path := { s.path with flight := rest } })
          { s.command with arguments := ws }).runs
    dsimp only at h
    split at h
    · rename_i a ha
      rw [Answer.finish, snapshotView_runs ha] at h
      exact outcome_moves h (Runs.moves (((h1 _).trans (finishCommand_runs _ _ _)).trans
        (finish_runs _)))
    · exact outcome_moves h (Runs.moves (((h1 _).trans (takeSnapshot_runs _ _)).trans
        (finish_runs _)))

theorem execArgumentReadFailed_moves {s t : State} (h : execArgumentReadFailed s = .next t) :
    Moves s.path.flight s t :=
  onCompletion_moves (fun _ u => Runs.moves ((raise_runs u _).trans (finishCommand_runs _ _ _))) h

theorem commandIdle_runs (s : State) :
    Runs s { s with command := { s.command with phase := .idle } } :=
  (Calm.command (s := s) _).runs

theorem execResultWriteDone_moves {b : Bool} {s t : State} (h : execResultWriteDone b s = .next t) :
    Moves s.path.flight s t :=
  onCompletion_moves (fun _ u => Runs.moves ((commandIdle_runs u).trans
    (runs_ite (fun _ => raise_runs _ _) fun _ => Runs.refl _))) h

theorem execSnapshotWriteDone_moves {b : Bool} {s t : State}
    (h : execSnapshotWriteDone b s = .next t) : Moves s.path.flight s t :=
  onCompletion_moves (fun _ u => Runs.moves (snapshotWritten_runs b u)) h

theorem execSealReadbackDone_moves {b : Bool} {s t : State}
    (h : execSealReadbackDone b s = .next t) : Moves s.path.flight s t :=
  onCompletion_moves (fun d u => Runs.moves (jobResult_runs u b _ _ sealFailed_runs
    (sealReadback_runs d))) h

theorem execHeadLineWriteDone_moves {b : Bool} {s t : State}
    (h : execHeadLineWriteDone b s = .next t) : Moves s.path.flight s t :=
  onCompletion_moves (fun _ u => Runs.moves (jobResult_runs u b _ _ sealFailed_runs
    sealCompleted_runs)) h

theorem execCheckHeadLineRead_moves {b : Bool} {s t : State}
    (h : execCheckHeadLineRead b s = .next t) : Moves s.path.flight s t :=
  onCompletion_moves (fun d u => Runs.moves (jobResult_runs u b _ _ checkFailed_runs
    (checkHead_runs d))) h

theorem execCheckPayloadRead_moves {b : Bool} {s t : State}
    (h : execCheckPayloadRead b s = .next t) : Moves s.path.flight s t :=
  onCompletion_moves (fun d u => Runs.moves (jobResult_runs u b _ _ checkFailed_runs
    (checkPayload_runs d))) h

theorem execRenewalHeadLineRead_moves {b : Bool} {s t : State}
    (h : execRenewalHeadLineRead b s = .next t) : Moves s.path.flight s t :=
  onCompletion_moves (fun d u => Runs.moves (jobResult_runs u b _ _ checkFailed_runs
    (renewalHead_runs d))) h

theorem execRenewalPayloadRead_moves {b : Bool} {s t : State}
    (h : execRenewalPayloadRead b s = .next t) : Moves s.path.flight s t :=
  onCompletion_moves (fun d u => Runs.moves (jobResult_runs u b _ _ checkFailed_runs
    (renewalPayload_runs d))) h

theorem execImportReadDone_moves {b : Bool} {s t : State} (h : execImportReadDone b s = .next t) :
    Moves s.path.flight s t :=
  onCompletion_moves (fun d u => Runs.moves (importReadReturned_runs b d u)) h

theorem execNoticeImageWriteDone_moves {b : Bool} {s t : State}
    (h : execNoticeImageWriteDone b s = .next t) : Moves s.path.flight s t :=
  onCompletion_moves (fun _ u => Runs.moves (noticeImageWritten_runs b u)) h

/-- Every command is made of changes. -/
theorem exec_moves {i : Instr} {s t : State} (h : exec i s = .next t) : Moves s.path.flight s t := by
  cases i with
  | powerOn => exact execPowerOn_moves h
  | resetLineAsserted ends => exact execResetLineAsserted_moves h
  | resetLineReleased => exact execResetLineReleased_moves h
  | boundaryScanSelected ends => exact execBoundaryScanSelected_moves h
  | fuseProgramming program => exact execFuseProgramming_moves h
  | rootFuseStoreRead => exact execRootFuseStoreRead_moves h
  | startUpResultWriteDone error => exact execStartUpResultWriteDone_moves h
  | upstreamRequest request => exact execUpstreamRequest_moves h
  | controlWindowWrite offset bytes => exact execControlWindowWrite_moves h
  | heartbeat => exact execHeartbeat_moves h
  | receipt => exact execReceipt_moves h
  | commandTaken code ticket => exact execTaken_moves h
  | defineWindow => exact perform_moves answerDefineWindow_runs h
  | clearWindow => exact perform_moves answerClearWindow_runs h
  | setContext => exact perform_moves answerSetContext_runs h
  | setGrouping => exact perform_moves answerSetGrouping_runs h
  | setNotice => exact perform_moves answerSetNotice_runs h
  | setHeartbeat => exact perform_moves answerSetHeartbeat_runs h
  | sealParcel => exact perform_moves answerSeal_runs h
  | release => exact perform_moves answerRelease_runs h
  | activateNow => exact perform_moves answerActivateNow_runs h
  | retire => exact perform_moves answerRetire_runs h
  | purge ticket => exact execTaken_moves h
  | snapshot => exact execSnapshot_moves h
  | restart ticket => exact execTaken_moves h
  | restartReset => exact execRestartReset_moves h
  | argumentReadFailed => exact execArgumentReadFailed_moves h
  | resultWriteDone error => exact execResultWriteDone_moves h
  | snapshotWriteDone error => exact execSnapshotWriteDone_moves h
  | passingPieceDone error => exact execPassingPieceDone_moves h
  | downstreamGrant => exact execDownstreamGrant_moves h
  | sealReadbackDone error => exact execSealReadbackDone_moves h
  | headLineWriteDone error => exact execHeadLineWriteDone_moves h
  | checkHeadLineRead error => exact execCheckHeadLineRead_moves h
  | checkPayloadRead error => exact execCheckPayloadRead_moves h
  | renewalHeadLineRead error => exact execRenewalHeadLineRead_moves h
  | renewalPayloadRead error => exact execRenewalPayloadRead_moves h
  | importReadDone error => exact execImportReadDone_moves h
  | postWriteIssue => exact execPostWriteIssue_moves h
  | postWriteDone error => exact execPostWriteDone_moves h
  | countersWriteDone error => exact execCountersWriteDone_moves h
  | noticeImageWriteDone error => exact execNoticeImageWriteDone_moves h
  | tick => exact execTick_moves h
  | activationMarkReached slot => exact execDeliver_moves h
  | expiryMarkReached slot => exact execDeliver_moves h
  | renewalDueMarkReached slot => exact execDeliver_moves h
  | drainDeadlineReached slot => exact execDeliver_moves h
  | gatherMarkReached => exact execDeliver_moves h
  | retryMarkReached => exact execDeliver_moves h
  | heartbeatMarkReached => exact execDeliver_moves h
  | linkSilenceMarkReached context => exact execDeliver_moves h

end Sys2Proof.Machine
end

