-- ==== Sys2Proof/Laws/Finish.lean ====
section
/-! SUPPORT. How a step ends while no notice starts: its events are told to the fault unit in order, its requests are issued, and nothing else changes. -/

namespace Sys2Proof.Machine

/-! ### Two states the fault unit cannot tell apart -/

/-- The parts of the state the taking of a fault event reads and writes agree, up to
the three marks of the counters write, which it does not read. -/
def SameFaults (a b : State) : Prop :=
  a.fault = { b.fault with
      countersStale := a.fault.countersStale, countersWanted := a.fault.countersWanted,
      countersWriting := a.fault.countersWriting } ∧
    a.windows = b.windows ∧ a.time = b.time ∧ a.composer = b.composer

theorem SameFaults.refl (a : State) : SameFaults a a :=
  ⟨rfl, rfl, rfl, rfl⟩

/-- The taking of an event changes the fault unit, the gather mark and what is in transit. -/
theorem takeEvent_eq (s : State) (e : FaultEvent) :
    s.takeEvent e = { s with
      fault := (s.takeEvent e).fault,
      composer := { s.composer with gather := (s.takeEvent e).composer.gather },
      transit := (s.takeEvent e).transit } := by
  unfold State.takeEvent
  split
  · unfold State.makeRecord
    dsimp only
    split <;> split <;> rfl
  · rfl

theorem sameFaults_fields {a b : State} (h : SameFaults a b) :
    a = { b with
      fault := { b.fault with
        countersStale := a.fault.countersStale, countersWanted := a.fault.countersWanted,
        countersWriting := a.fault.countersWriting },
      pending := a.pending, mode := a.mode, mem := a.mem, path := a.path, tag := a.tag,
      keys := a.keys, fuses := a.fuses, renewal := a.renewal, command := a.command,
      transit := a.transit, responses := a.responses, freeCount := a.freeCount } := by
  obtain ⟨h1, h2, h3, h4⟩ := h
  rw [← h1, ← h2, ← h3, ← h4]

theorem recordsAtNo_same {a b : State} (h : SameFaults a b) : a.recordsAtNo = b.recordsAtNo := by
  rw [sameFaults_fields h]
  rfl

theorem queueHasRoom_same {a b : State} (h : SameFaults a b) :
    a.queueHasRoom = b.queueHasRoom := by
  rw [sameFaults_fields h]
  rfl

theorem makeRecord_same {a b : State} (h : SameFaults a b) (e : FaultEvent) :
    SameFaults (a.makeRecord e) (b.makeRecord e) := by
  have hp : (a.fault.posted.isNone || !a.fault.postSound) =
      (b.fault.posted.isNone || !b.fault.postSound) := by
    rw [sameFaults_fields h]
  unfold State.makeRecord
  dsimp only
  rw [recordsAtNo_same h, hp, sameFaults_fields h]
  split <;> split <;> exact ⟨rfl, rfl, rfl, rfl⟩

theorem loseEvent_same {a b : State} (h : SameFaults a b) (e : FaultEvent) :
    SameFaults (a.loseEvent e) (b.loseEvent e) := by
  rw [sameFaults_fields h]
  exact ⟨rfl, rfl, rfl, rfl⟩

theorem takeEvent_same {a b : State} (h : SameFaults a b) (e : FaultEvent) :
    SameFaults (a.takeEvent e) (b.takeEvent e) := by
  unfold State.takeEvent
  rw [queueHasRoom_same h]
  split
  · exact makeRecord_same h e
  · exact loseEvent_same h e

/-! ### Settling while no notice starts -/

theorem noticeWindow_congr {a b : State} (h : a.windows = b.windows) :
    a.noticeWindow = b.noticeWindow := by
  unfold State.noticeWindow State.window
  rw [h]

/-- The parts of the state an examination reads agree. -/
def SameNotice (a b : State) : Prop :=
  SameFaults a b ∧ a.keys = b.keys

theorem noticeCalled_congr {a b : State} (h : SameNotice a b) : a.noticeCalled = b.noticeCalled := by
  obtain ⟨h1, h2⟩ := h
  rw [sameFaults_fields h1, h2]
  rfl

theorem SameNotice.refl (a : State) : SameNotice a a :=
  ⟨.refl a, rfl⟩

/-- Of the fault unit an examination reads the records alone. -/
theorem noticeCalled_fault {a b : State}
    (h : SameNotice { a with fault := b.fault } b) (hq : a.fault.queue = b.fault.queue) :
    a.noticeCalled = b.noticeCalled := by
  rw [← noticeCalled_congr h]
  unfold State.noticeCalled State.recordsCall State.recordsAtNo
  rw [hq]
  rfl

theorem takeEvent_notice {a b : State} (h : SameNotice a b) (e : FaultEvent) :
    SameNotice (a.takeEvent e) (b.takeEvent e) := by
  refine ⟨takeEvent_same h.1 e, ?_⟩
  rw [takeEvent_eq a, takeEvent_eq b]
  exact h.2

/-- An examination starts nothing where no notice is called for. -/
theorem examine_quiet {s : State} (h : s.noticeCalled = false) : s.examine = s := by
  unfold State.noticeCalled at h
  unfold State.examine
  by_cases hp : s.composer.phase = .idle
  · rw [if_neg (by simpa using hp)]
    rw [hp] at h
    cases hw : s.noticeWindow with
    | none => rfl
    | some w =>
      rw [hw] at h
      dsimp only at h ⊢
      cases he : s.window w with
      | none => rfl
      | some e =>
        rw [he] at h
        dsimp only at h ⊢
        by_cases hc : (s.retryClear && s.recordsCall && s.ringParcelFree w) = true
        · rw [if_pos hc]
          rw [hc] at h
          cases hx : s.chooseContext e.context with
          | none => rfl
          | some c => rw [hx] at h; simp at h
        · rw [if_neg hc]
  · rw [if_pos hp]

theorem runExamination_quiet {s : State} (h : s.noticeCalled = false) :
    s.runExamination = { s with transit := { s.transit with examine := false } } := by
  unfold State.runExamination
  by_cases he : s.transit.examine = true
  · rw [if_pos he]
    exact examine_quiet ((noticeCalled_congr ⟨⟨rfl, rfl, rfl, rfl⟩, rfl⟩).trans h)
  · rw [if_neg he]
    have : s.transit.examine = false := by simpa using he
    rw [← this]

/-- Events taken one after another. -/
def takeAll (s : State) (events : List FaultEvent) : State :=
  events.foldl State.takeEvent s

theorem takeAll_eq : ∀ (events : List FaultEvent) (s : State),
    takeAll s events = { s with
      fault := (takeAll s events).fault,
      composer := { s.composer with gather := (takeAll s events).composer.gather },
      transit := (takeAll s events).transit }
  | [], _ => rfl
  | e :: rest, s => by
    show takeAll (s.takeEvent e) rest = _
    conv_lhs => rw [takeAll_eq rest (s.takeEvent e)]
    conv_lhs => rw [takeEvent_eq s e]
    conv_rhs => rw [show takeAll s (e :: rest) = takeAll (s.takeEvent e) rest from rfl]
    conv_rhs => rw [takeEvent_eq s e]

theorem noNotice_first {b : State} {events : List FaultEvent} (h : NoNotice b events) :
    b.noticeCalled = false :=
  h 0 (Nat.zero_le _)

theorem noNotice_last {b : State} {events : List FaultEvent} (h : NoNotice b events) :
    (takeAll b events).noticeCalled = false := by
  have := h events.length (Nat.le_refl _)
  rwa [List.take_length] at this

theorem noNotice_tail {b : State} {e : FaultEvent} {rest : List FaultEvent}
    (h : NoNotice b (e :: rest)) : NoNotice (b.takeEvent e) rest := by
  intro k hk
  exact h (k + 1) (by simpa using hk)

/-- With no NOTICE window no notice is called for. -/
theorem noNotice_window {b : State} (h : b.noticeWindow = none) (events : List FaultEvent) :
    NoNotice b events := by
  intro k _
  show (takeAll b (events.take k)).noticeCalled = false
  have hw : (takeAll b (events.take k)).noticeWindow = none := by
    rw [← h]
    refine noticeWindow_congr ?_
    rw [takeAll_eq]
  unfold State.noticeCalled
  rw [hw]
  simp

/-- While a notice is in progress no other is called for. -/
theorem noNotice_phase {b : State} (h : b.composer.phase ≠ .idle) (events : List FaultEvent) :
    NoNotice b events := by
  intro k _
  show (takeAll b (events.take k)).noticeCalled = false
  have hp : (takeAll b (events.take k)).composer.phase ≠ .idle := by
    rw [takeAll_eq]
    exact h
  unfold State.noticeCalled
  simp [hp]

/-! ### The counters write -/

/-- A list of counters writes. -/
abbrev OnlyCounters (l : List InternalRequest) : Prop :=
  ∀ r ∈ l, r.purpose = .counters

theorem onlyCounters_append {l l' : List InternalRequest} (h : OnlyCounters l)
    (h' : OnlyCounters l') : OnlyCounters (l ++ l') :=
  fun r hr => (List.mem_append.mp hr).elim (h r) (h' r)

/-- Issuing a counters write adds at most that request behind those that wait, and
sets the three marks of the write. -/
theorem issueCounters_eq (s : State) : ∃ more, OnlyCounters more ∧
    s.issueCounters = { s with
      path := { s.path with unissued := s.path.unissued ++ more },
      fault := { s.fault with
        countersStale := s.issueCounters.fault.countersStale,
        countersWanted := s.issueCounters.fault.countersWanted,
        countersWriting := s.issueCounters.fault.countersWriting } } := by
  unfold State.issueCounters
  split
  · exact ⟨_, by simp [OnlyCounters], rfl⟩
  · exact ⟨[], by simp [OnlyCounters], by simp⟩

theorem issueCounters_same {a b : State} (h : SameNotice a b) : SameNotice a.issueCounters b := by
  obtain ⟨more, _, h1⟩ := issueCounters_eq a
  obtain ⟨⟨hf, hw, ht, hc⟩, hk⟩ := h
  rw [h1]
  refine ⟨⟨?_, hw, ht, hc⟩, hk⟩
  dsimp only
  rw [hf]

/-- The events a step hands on are told one after another, each with the counters
write it calls for. -/
theorem fold_reports : ∀ (events : List FaultEvent) {a b : State}, SameNotice a b →
    NoNotice b events →
    ∃ u more, (events.map Report.event).foldl
        (fun t r => (t.takeReport r).issueCounters.runExamination) a = u ∧
      SameNotice u (takeAll b events) ∧ OnlyCounters more ∧
      u = { a with
        path := { a.path with unissued := a.path.unissued ++ more },
        fault := u.fault, composer := u.composer, transit := u.transit } ∧
      u.transit.reports = a.transit.reports
  | [], a, _, h, _ => ⟨a, [], rfl, h, by simp [OnlyCounters], by simp, rfl⟩
  | e :: rest, a, b, h, hb => by
    have h2 : SameNotice (a.takeEvent e).issueCounters (b.takeEvent e) :=
      issueCounters_same (takeEvent_notice h e)
    have h1 := runExamination_quiet ((noticeCalled_congr h2).trans
      (noNotice_first (noNotice_tail hb)))
    have h3 : SameNotice (a.takeEvent e).issueCounters.runExamination (b.takeEvent e) := by
      rw [h1]
      exact h2
    obtain ⟨u, more, hu, hs, hm, hx, hr⟩ := fold_reports rest h3 (noNotice_tail hb)
    obtain ⟨first, hf, hi⟩ := issueCounters_eq (a.takeEvent e)
    refine ⟨u, first ++ more, hu, hs, onlyCounters_append hf hm, ?_, ?_⟩
    · rw [hx, h1, hi, takeEvent_eq a e]
      simp
    · rw [hr, h1, hi]
      show (a.takeEvent e).transit.reports = _
      unfold State.takeEvent
      split
      · unfold State.makeRecord
        dsimp only
        split <;> split <;> rfl
      · rfl

/-- Settling tells the events to the fault unit, one after another. -/
theorem settle_quiet {a b : State} {events : List FaultEvent} (h : SameNotice a b)
    (hb : NoNotice b events) (hr : a.transit.reports = events.map .event)
    (hm : a.mode = .running) :
    SameNotice a.settle (takeAll b events) ∧ ∃ more, OnlyCounters more ∧
      a.settle = { a with
        path := { a.path with unissued := a.path.unissued ++ more },
        fault := a.settle.fault, composer := a.settle.composer, transit := Transit.empty } := by
  obtain ⟨u, more, hu, hs, ho, hx, hy⟩ := fold_reports events (a := { a with
    transit := { a.transit with reports := [] } }) (b := b) h hb
  have hd : a.drainReports = u := by
    unfold State.drainReports
    rw [hr]
    exact hu
  have he : a.settle = { u with transit := Transit.empty } := by
    unfold State.settle
    rw [if_pos hm, hd, runExamination_quiet ((noticeCalled_congr hs).trans (noNotice_last hb))]
    unfold State.drainReports
    dsimp only
    rw [hy]
    rfl
  rw [he]
  refine ⟨hs, more, ho, ?_⟩
  dsimp only
  generalize u.fault = f at *
  generalize u.composer = c at *
  generalize u.transit = x at *
  rw [hx]

/-! ### Issuing -/

theorem issueWaiting_requests (s : State) : s.issueWaiting.requests = s.requests := by
  simp [State.requests, State.issueWaiting]

/-- The end of a step moves requests into the internal stream in order and may add
the counters write. -/
theorem pump_requests (s : State) :
    s.pump = { s with path := s.pump.path, fault := s.pump.fault } ∧
      s.pump.path = { s.path with
        internal := s.pump.path.internal, unissued := s.pump.path.unissued } ∧
      s.pump.fault = { s.fault with
        countersStale := s.pump.fault.countersStale, countersWanted := s.pump.fault.countersWanted,
        countersWriting := s.pump.fault.countersWriting } ∧
      ∃ more, s.pump.requests = s.requests ++ more ∧ OnlyCounters more := by
  unfold State.pump
  by_cases hm : s.mode = .running
  · simp only [if_pos hm]
    obtain ⟨more, ho, h⟩ := issueCounters_eq s
    generalize s.issueCounters.fault.countersStale = c1 at h
    generalize s.issueCounters.fault.countersWanted = c2 at h
    generalize s.issueCounters.fault.countersWriting = c3 at h
    generalize s.issueCounters = v at *
    subst h
    refine ⟨rfl, rfl, rfl, more, ?_, ho⟩
    rw [issueWaiting_requests]
    simp [State.requests]
  · simp only [if_neg hm]
    exact ⟨trivial, trivial, trivial, [], by simp, by simp [OnlyCounters]⟩

/-- The end of a step of a running part, where counters writes may stand behind the
requests that the step has issued, with their marks set. -/
theorem finish_issued {u b : State} {new more : List InternalRequest} {events : List FaultEvent}
    (hm : b.mode = .running) (ho : OnlyCounters more)
    (hu : u = { b with
      path := { b.path with unissued := b.path.unissued ++ new ++ more },
      fault := { b.fault with
        countersStale := u.fault.countersStale, countersWanted := u.fault.countersWanted,
        countersWriting := u.fault.countersWriting },
      transit := { reports := events.map .event, examine := u.transit.examine } }) :
    EndsAs b u.finish new events := by
  intro hb
  have hsame : SameNotice u b := by
    generalize u.fault.countersStale = c1 at *
    generalize u.fault.countersWanted = c2 at *
    generalize u.fault.countersWriting = c3 at *
    generalize u.transit.examine = c4 at *
    subst hu
    exact ⟨⟨rfl, rfl, rfl, rfl⟩, rfl⟩
  obtain ⟨hs, more', ho', he⟩ := settle_quiet hsame hb (by rw [hu]) (by rw [hu]; exact hm)
  obtain ⟨h1, h2, h3, more'', h4, h5⟩ := pump_requests u.settle
  unfold State.finish
  generalize u.settle.pump = t at *
  have hc : t.composer = { b.composer with gather := (takeAll b events).composer.gather } := by
    rw [h1]
    show u.settle.composer = _
    rw [hs.1.2.2.2]
    conv_lhs => rw [takeAll_eq]
  have hf : t.fault = { (takeAll b events).fault with
      countersStale := t.fault.countersStale, countersWanted := t.fault.countersWanted,
      countersWriting := t.fault.countersWriting } := by
    conv_lhs => rw [h3, hs.1.1]
  have hp : u.settle.path = { b.path with
      unissued := b.path.unissued ++ (new ++ more ++ more') } := by
    rw [he, hu]
    simp
  refine ⟨?_, ⟨?_, more ++ more' ++ more'', ?_,
    onlyCounters_append (onlyCounters_append ho ho') h5⟩, hf, hc⟩
  · rw [h1, he, hu]
  · conv_lhs => rw [h2, hp]
  · rw [h4]
    unfold State.requests
    rw [hp]
    simp

/-- The end of a step whose own effect issues `new` and calls for no counters write. -/
theorem finish_of {u b : State} {new : List InternalRequest} {events : List FaultEvent}
    (hm : b.mode = .running)
    (hu : u = { b with path := { b.path with unissued := b.path.unissued ++ new },
                       transit := { reports := events.map .event, examine := u.transit.examine } }) :
    EndsAs b u.finish new events := by
  refine finish_issued (more := []) hm (by simp [OnlyCounters]) ?_
  have hf : u.fault = b.fault := by rw [hu]
  rw [hf, List.append_nil]
  exact hu

/-- The same where the effect may have called for a counters write. -/
theorem issueCounters_finish {u b : State} {new : List InternalRequest}
    {events : List FaultEvent} (hm : b.mode = .running)
    (hu : u = { b with path := { b.path with unissued := b.path.unissued ++ new },
                       transit := { reports := events.map .event, examine := u.transit.examine } }) :
    EndsAs b u.issueCounters.finish new events := by
  obtain ⟨more, ho, h⟩ := issueCounters_eq u
  refine finish_issued (more := more) hm ho ?_
  have hx : u.issueCounters.transit = u.transit := by rw [h]
  rw [hx]
  generalize u.issueCounters = v at *
  rw [h, hu]

/-! ### Completions -/

theorem landed_eq (s : State) (r : InternalRequest) (rest : List Flight) (e : Bool) :
    s.landed r rest e = { s with
      path := { s.path with flight := rest },
      mem := (s.landed r rest e).mem, freeCount := (s.landed r rest e).freeCount } :=
  complete_eq _ _ _ _

@[simp] theorem landed_pending (s : State) (r : InternalRequest) (rest : List Flight) (e : Bool) :
    (s.landed r rest e).pending = s.pending := by
  rw [landed_eq]
@[simp] theorem landed_mode (s : State) (r : InternalRequest) (rest : List Flight) (e : Bool) :
    (s.landed r rest e).mode = s.mode := by
  rw [landed_eq]
@[simp] theorem landed_windows (s : State) (r : InternalRequest) (rest : List Flight) (e : Bool) :
    (s.landed r rest e).windows = s.windows := by
  rw [landed_eq]
@[simp] theorem landed_tag (s : State) (r : InternalRequest) (rest : List Flight) (e : Bool) :
    (s.landed r rest e).tag = s.tag := by
  rw [landed_eq]
@[simp] theorem landed_keys (s : State) (r : InternalRequest) (rest : List Flight) (e : Bool) :
    (s.landed r rest e).keys = s.keys := by
  rw [landed_eq]
@[simp] theorem landed_fuses (s : State) (r : InternalRequest) (rest : List Flight) (e : Bool) :
    (s.landed r rest e).fuses = s.fuses := by
  rw [landed_eq]
@[simp] theorem landed_renewal (s : State) (r : InternalRequest) (rest : List Flight) (e : Bool) :
    (s.landed r rest e).renewal = s.renewal := by
  rw [landed_eq]
@[simp] theorem landed_time (s : State) (r : InternalRequest) (rest : List Flight) (e : Bool) :
    (s.landed r rest e).time = s.time := by
  rw [landed_eq]
@[simp] theorem landed_fault (s : State) (r : InternalRequest) (rest : List Flight) (e : Bool) :
    (s.landed r rest e).fault = s.fault := by
  rw [landed_eq]
@[simp] theorem landed_composer (s : State) (r : InternalRequest) (rest : List Flight) (e : Bool) :
    (s.landed r rest e).composer = s.composer := by
  rw [landed_eq]
@[simp] theorem landed_command (s : State) (r : InternalRequest) (rest : List Flight) (e : Bool) :
    (s.landed r rest e).command = s.command := by
  rw [landed_eq]
@[simp] theorem landed_transit (s : State) (r : InternalRequest) (rest : List Flight) (e : Bool) :
    (s.landed r rest e).transit = s.transit := by
  rw [landed_eq]
@[simp] theorem landed_responses (s : State) (r : InternalRequest) (rest : List Flight) (e : Bool) :
    (s.landed r rest e).responses = s.responses := by
  rw [landed_eq]
@[simp] theorem landed_path (s : State) (r : InternalRequest) (rest : List Flight) (e : Bool) :
    (s.landed r rest e).path = { s.path with flight := rest } := by
  rw [landed_eq]

theorem takeWaiting_empty {s : State} (h : s.path.port = []) : s.takeWaiting = s := by
  unfold State.takeWaiting
  rw [h]
  rfl

/-- While the hold is set nothing is taken. -/
theorem takeWaiting_hold {s : State} (h : s.path.hold = true) : s.takeWaiting = s := by
  unfold State.takeWaiting
  cases s.path.port.length with
  | zero => rfl
  | succ n =>
    unfold State.takeWaitingFuel
    split
    · rfl
    · rw [if_neg]
      simp [State.takes, h]

/-- A completion whose result is wanted: its issuer acts on it. -/
theorem onCompletion_of {s : State} {p : Purpose} {r : InternalRequest} {rest : List Flight}
    (h : Oldest s p r rest) (d : Purpose → Bool) (hd : d p = true) (e : Bool)
    (act : List Byte → State → State) :
    s.onCompletion d e act =
      .next (act (s.returned r.address r.access) (s.landed r rest e)).issueCounters.finish := by
  obtain ⟨hf, hp, hi⟩ := h
  subst hp
  unfold State.onCompletion State.completeInternal
  simp only [hf, hd, hi, if_true, State.landed]
  rfl

/-- The return of the argument read of a command in progress. -/
theorem perform_of {s : State} {code : Nat} {words : List Nat} {rest : List Flight}
    (h : ArgumentsRead s code words rest) (act : List Nat → State → Answer) :
    s.perform code act = .next (act words { s with
      path := { s.path with flight := rest },
      command := { s.command with arguments := words } }).finish.issueCounters.finish := by
  obtain ⟨r, ⟨hf, hp, hi⟩, hph, hc, hw⟩ := h
  unfold State.perform State.argumentReturns
  simp only [hf, hp, hi, hph, hc, hw, and_self, if_true]

end Sys2Proof.Machine
end

