-- ==== Sys2Proof/Laws/Arrive.lean ====
section
/-! SUPPORT. What a request that arrives comes to: a second end of a step, requests that wait for their pieces, and requests refused. -/

namespace Sys2Proof.Machine

/-! ### A second end of a step, and the taking of a request -/

/-- Where a step has ended, a second end calls for no notice either. -/
theorem ended_quiet {b t : State} {events : List FaultEvent}
    (hb : NoNotice b events)
    (ht : t = { b with path := t.path, fault := t.fault, composer := t.composer,
                       transit := Transit.empty })
    (h : Told b t events) : t.noticeCalled = false := by
  obtain ⟨hf, hg⟩ := h
  have hl := noNotice_last hb
  rw [← hl]
  refine noticeCalled_fault ⟨⟨rfl, ?_, ?_, ?_⟩, ?_⟩ ?_
  · rw [takeAll_eq]
    show t.windows = b.windows
    rw [ht]
  · rw [takeAll_eq]
    show t.time = b.time
    rw [ht]
  · rw [takeAll_eq]
    exact hg
  · rw [takeAll_eq]
    show t.keys = b.keys
    rw [ht]
  · rw [hf]
    rfl

/-- The end of a step keeps what an earlier end of it gave. -/
theorem endsAs_finish {b t : State} {new : List InternalRequest} {events : List FaultEvent}
    (hm : b.mode = .running) (h0 : EndsAs b t new events) :
    EndsAs b t.finish new events := by
  intro hb
  have h := h0 hb
  have hq := ended_quiet hb h.1 h.2.2
  obtain ⟨ht, ⟨hp, more, hr, hc⟩, hf, hg⟩ := h
  have htm : t.mode = .running := by rw [ht]; exact hm
  have htx : t.transit = Transit.empty := by rw [ht]
  have h1 := finish_of (u := t) (b := t) (new := []) (events := []) htm (by
    simp only [List.append_nil, List.map_nil, htx]
    show t = { t with transit := Transit.empty }
    rw [← htx])
  obtain ⟨a1, ⟨a2, more', a3, a4⟩, a5, a6⟩ := h1 (by
    intro k _
    rw [List.take_nil]
    exact hq)
  simp only [List.foldl_nil, List.append_nil] at a3 a5 a6
  refine ⟨?_, ⟨?_, more ++ more', ?_, ?_⟩, ?_, ?_⟩
  · generalize t.finish = u at *
    rw [a1]
    generalize u.path = up at *
    generalize u.fault = uf at *
    generalize u.composer = uc at *
    rw [ht]
  · generalize t.finish = u at *
    rw [a2]
    generalize u.path.internal = i1
    generalize u.path.unissued = i2
    rw [hp]
  · rw [a3, hr]
    simp
  · intro r hr'
    rcases List.mem_append.mp hr' with h | h
    · exact hc r h
    · exact a4 r h
  · dsimp only
    rw [a5]
    generalize t.finish.fault.countersStale = c1
    generalize t.finish.fault.countersWanted = c2
    generalize t.finish.fault.countersWriting = c3
    rw [hf]
  · rw [a6]
    simp only [hg]

/-- The oldest request is not answered while it waits for a piece. -/
theorem answer_waits {t : State} (h : Unanswered t) : t.answer = t.finish := by
  unfold State.answer
  have : ∀ n, State.answerAll n t = t := by
    intro n
    cases n with
    | zero => rfl
    | succ n =>
      unfold State.answerAll
      split
      · rfl
      · rename_i x rest hx
        rw [if_neg (by rw [h x (by rw [hx]; rfl)]; decide)]
  rw [this]

/-- A request that is taken as it arrives. -/
theorem arrive_ready {s : State} {r : Request} (hm : s.mode = .running)
    (hh : s.path.hold = false) (hp : s.path.port = []) (hr : s.roomFor r = true)
    (hc : Request.isControl r = true → s.controlFree = true) :
    s.arrive r = (s.takeRequest r).finish.answer := by
  have he : { s with path := { s.path with port := s.path.port } } = s := rfl
  have ht : s.takes r = true := by
    unfold State.takes
    cases h : Request.isControl r with
    | true => simp [hm, hh, hr, hc h]
    | false => simp [hm, hh, hr]
  unfold State.arrive State.takeWaiting
  simp only [hp, List.nil_append, List.length_singleton]
  unfold State.takeWaitingFuel State.takeWaitingFuel
  rw [hp] at he
  generalize hu : ({ s with path := { s.path with port := [r] } } : State) = u
  have hup : u.path.port = [r] := by rw [← hu]
  have hut : u.takes r = true := by
    rw [← hu]
    exact ht
  have hus : ({ u with path := { u.path with port := [] } } : State) = s := by
    rw [← hu]
    exact he
  rw [hup]
  dsimp only
  rw [if_pos hut, hus]

/-- A request taken at once that still waits for a piece. -/
theorem arrive_waits {s b : State} {r : Request} {new : List InternalRequest}
    {events : List FaultEvent} (hm : s.mode = .running) (hbm : b.mode = .running)
    (hh : s.path.hold = false) (hp : s.path.port = [])
    (hr : s.roomFor r = true) (hc : Request.isControl r = true → s.controlFree = true)
    (ht : s.takeRequest r = { b with
      path := { b.path with unissued := b.path.unissued ++ new },
      transit := { reports := events.map .event, examine := (s.takeRequest r).transit.examine } })
    (hu : Unanswered b) : EndsAs b (s.arrive r) new events := by
  intro hb
  have h1 := finish_of (u := s.takeRequest r) hbm ht
  rw [arrive_ready hm hh hp hr hc, answer_waits]
  · exact endsAs_finish hbm h1 hb
  · intro x hx
    refine hu x ?_
    rw [(h1 hb).2.1.1] at hx
    exact hx

/-! ### Refusals -/

/-- Taking a refusal changes the fault unit, the gather mark and what is in transit. -/
theorem takeRefusal_eq (s : State) (x : Fin 9) (y : RefusalReason) (z : Option Nat) :
    s.takeRefusal x y z = { s with
      fault := (s.takeRefusal x y z).fault,
      composer := { s.composer with gather := (s.takeRefusal x y z).composer.gather },
      transit := (s.takeRefusal x y z).transit } := by
  unfold State.takeRefusal
  dsimp only
  split
  · split
    · generalize s.refusedAccessEvent x y z = e
      generalize ({ value := 1, firstReason := some y, firstParcel := z,
                    link := some s.fault.nextOrdinal } : RefusalCounter) = k
      unfold State.countersChanged State.makeRecord State.setCounter
      dsimp only
      split <;> split <;> rfl
    · rfl
  · rfl

theorem counter_setCounter (s : State) (x y : Fin 9) (k : RefusalCounter) :
    (s.setCounter x k).counter y = if y = x then k else s.counter y := by
  unfold State.counter State.setCounter
  simp only [Fin.getElem_fin, Vector.getElem_set]
  by_cases h : y = x
  · subst h
    simp
  · rw [if_neg h, if_neg]
    intro hv
    exact h (Fin.ext hv.symm)

theorem makeRecord_counter (s : State) (e : FaultEvent) (y : Fin 9) :
    (s.makeRecord e).counter y = s.counter y := by
  unfold State.makeRecord
  dsimp only
  split <;> split <;> rfl

theorem countUp_eq (bound n : Nat) : countUp bound n = min bound (n + 1) := by
  unfold countUp
  split <;> omega

/-- One refusal. -/
theorem takeRefusal_refused (s : State) (x : Fin 9) (y : RefusalReason) (z : Option Nat) :
    Refused s (s.takeRefusal x y z) x 1 y z := by
  unfold State.takeRefusal
  dsimp only
  by_cases h0 : (s.counter x).value = 0
  · rw [if_pos h0]
    by_cases hr : s.queueHasRoom = true
    · rw [if_pos hr]
      have hl : s.fault.queue.length < 8 := by simpa [State.queueHasRoom] using hr
      generalize hk : ({ value := 1, firstReason := some y, firstParcel := z,
                           link := some s.fault.nextOrdinal } : RefusalCounter) = k
      have hc : ∀ v, (((s.setCounter x k).makeRecord (s.refusedAccessEvent x y z)).countersChanged
          ).counter v = if v = x then k else s.counter v := by
        intro v
        show ((s.setCounter x k).makeRecord (s.refusedAccessEvent x y z)).counter v = _
        rw [makeRecord_counter, counter_setCounter]
      refine ⟨fun v hv => by rw [hc, if_neg hv], fun h => absurd h0 h, fun _ _ => ⟨?_, ?_, ?_⟩,
        fun _ h => absurd hl (by omega)⟩
      · rw [hc, if_pos rfl, hk]
      · show ((s.setCounter x k).makeRecord (s.refusedAccessEvent x y z)).fault.queue = _
        rw [makeRecord_queue]
        rfl
      · show ((s.setCounter x k).makeRecord (s.refusedAccessEvent x y z)).fault.attn = _
        rw [makeRecord_attn, makeRecord_queue]
        simp [attnLevel, State.newRecord]
    · rw [if_neg hr]
      have hl : 8 ≤ s.fault.queue.length := by simpa [State.queueHasRoom] using hr
      have hc : ∀ v, (((s.setCounter x RefusalCounter.zero).loseEvent
          (s.refusedAccessEvent x y z)).countersChanged).counter v =
            if v = x then RefusalCounter.zero else s.counter v := by
        intro v
        exact counter_setCounter s x v RefusalCounter.zero
      refine ⟨fun v hv => by rw [hc, if_neg hv], fun h => absurd h0 h,
        fun _ h => absurd hl (by omega), fun _ _ => ⟨by rw [hc, if_pos rfl], rfl, ?_⟩⟩
      show countUp 4294967295 s.fault.lostTotal = _
      exact countUp_eq _ _
  · rw [if_neg h0]
    have hc : ∀ v, ((s.setCounter x { s.counter x with
        value := countUp 65535 (s.counter x).value }).countersChanged).counter v =
          if v = x then { s.counter x with value := countUp 65535 (s.counter x).value }
          else s.counter v := fun v => counter_setCounter s x v _
    refine ⟨fun v hv => by rw [hc, if_neg hv], fun _ => ⟨?_, rfl, rfl⟩, fun h => absurd h h0,
      fun h => absurd h h0⟩
    rw [hc, if_pos rfl, countUp_eq]

/-- One refusal after others. -/
theorem refused_next {s t u : State} {x : Fin 9} {n : Nat} {y : RefusalReason} {z : Option Nat}
    (hn : 1 ≤ n) (h : Refused s t x n y z) (h' : Refused t u x 1 y z) (hs : n < 65535) :
    Refused s u x (n + 1) y z := by
  obtain ⟨a1, a2, a3, a4⟩ := h
  obtain ⟨b1, b2, b3, b4⟩ := h'
  refine ⟨fun v hv => (b1 v hv).trans (a1 v hv), ?_, ?_, ?_⟩
  · intro h0
    obtain ⟨c1, c2, c4⟩ := a2 h0
    have hv : (t.counter x).value ≠ 0 := by
      rw [c1]
      dsimp only
      omega
    obtain ⟨d1, d2, d4⟩ := b2 hv
    refine ⟨?_, d2.trans c2, d4.trans c4⟩
    rw [d1, c1]
    dsimp only
    congr 1
    omega
  · intro h0 hl
    obtain ⟨c1, c2, c3⟩ := a3 h0 hl
    have hv : (t.counter x).value ≠ 0 := by
      rw [c1]
      dsimp only
      omega
    obtain ⟨d1, d2, d4⟩ := b2 hv
    refine ⟨?_, d2.trans c2, d4.trans c3⟩
    rw [d1, c1]
    dsimp only
    congr 1
    omega
  · intro h0 hl
    obtain ⟨c1, c2, c3⟩ := a4 h0 hl
    obtain ⟨d1, d2, d3⟩ := b4 (by rw [c1]; rfl) (by rw [c2]; exact hl)
    refine ⟨d1, d2.trans c2, ?_⟩
    rw [d3, c3]
    omega

theorem setCounter_same {a b : State} (h : SameFaults a b) (x : Fin 9) (k : RefusalCounter) :
    SameFaults (a.setCounter x k) (b.setCounter x k) := by
  rw [sameFaults_fields h]
  exact ⟨rfl, rfl, rfl, rfl⟩

theorem countersChanged_same {a b : State} (h : SameFaults a b) :
    SameFaults a.countersChanged b.countersChanged := by
  rw [sameFaults_fields h]
  exact ⟨rfl, rfl, rfl, rfl⟩

theorem refusedAccessEvent_same {a b : State} (h : SameFaults a b) (x : Fin 9)
    (y : RefusalReason) (z : Option Nat) :
    a.refusedAccessEvent x y z = b.refusedAccessEvent x y z := by
  unfold State.refusedAccessEvent State.window
  rw [h.2.1]

/-- The fault unit takes a refusal alike in states it cannot tell apart. -/
theorem takeRefusal_same {a b : State} (h : SameNotice a b) (x : Fin 9) (y : RefusalReason)
    (z : Option Nat) : SameNotice (a.takeRefusal x y z) (b.takeRefusal x y z) := by
  refine ⟨?_, ?_⟩
  · have hs := h.1
    have hk : a.counter x = b.counter x := by
      unfold State.counter
      rw [hs.1]
    unfold State.takeRefusal
    dsimp only
    rw [hk, queueHasRoom_same hs, refusedAccessEvent_same hs,
      show a.fault.nextOrdinal = b.fault.nextOrdinal by rw [hs.1]]
    split
    · split
      · exact countersChanged_same (makeRecord_same (setCounter_same hs _ _) _)
      · exact countersChanged_same (loseEvent_same (setCounter_same hs _ _) _)
    · exact countersChanged_same (setCounter_same hs _ _)
  · rw [takeRefusal_eq a, takeRefusal_eq b]
    exact h.2

/-- The marks of the counters write are no part of what refusals give. -/
theorem refused_fault {s t u : State} {x : Fin 9} {n : Nat} {y : RefusalReason} {z : Option Nat}
    (h : Refused s t x n y z)
    (hf : u.fault = { t.fault with
      countersStale := u.fault.countersStale, countersWanted := u.fault.countersWanted,
      countersWriting := u.fault.countersWriting }) : Refused s u x n y z := by
  unfold Refused State.counter at h ⊢
  rw [hf]
  exact h

/-- One refusal at an event of its own: the counters write it calls for may be issued,
and no notice starts. -/
theorem refusal_quiet {u b : State} {x : Fin 9} {y : RefusalReason} {z : Option Nat}
    (h : SameNotice u b) (hq : (b.takeRefusal x y z).noticeCalled = false) :
    let v := (u.takeRefusal x y z).issueCounters.runExamination
    SameNotice v (b.takeRefusal x y z) ∧ Refused u v x 1 y z ∧
      v.transit.reports = u.transit.reports ∧
      ∃ more, OnlyCounters more ∧
        v = { u with
          path := { u.path with unissued := u.path.unissued ++ more }, fault := v.fault,
          composer := { u.composer with gather := v.composer.gather }, transit := v.transit } := by
  have hs : SameNotice (u.takeRefusal x y z).issueCounters (b.takeRefusal x y z) :=
    issueCounters_same (takeRefusal_same h x y z)
  have hr := runExamination_quiet ((noticeCalled_congr hs).trans hq)
  obtain ⟨more, ho, hi⟩ := issueCounters_eq (u.takeRefusal x y z)
  dsimp only
  rw [hr]
  refine ⟨hs, refused_fault (takeRefusal_refused u x y z) ?_, ?_, more, ho, ?_⟩
  · exact congrArg State.fault hi
  · rw [hi]
    show (u.takeRefusal x y z).transit.reports = _
    unfold State.takeRefusal State.countersChanged State.makeRecord State.loseEvent
      State.setCounter State.startPosting State.noteExamination State.setGather State.evaluateAttn
    dsimp only
    split
    · split
      · split <;> split <;> rfl
      · rfl
    · rfl
  · have ht := takeRefusal_eq u x y z
    clear hq h hs hr
    generalize (u.takeRefusal x y z).issueCounters = v at *
    generalize u.takeRefusal x y z = t at *
    generalize v.fault.countersStale = c1 at hi
    generalize v.fault.countersWanted = c2 at hi
    generalize v.fault.countersWriting = c3 at hi
    subst hi
    generalize t.fault = f at *
    generalize t.composer.gather = g at *
    generalize t.transit = w at *
    subst ht
    rfl

/-- Refusals of one kind taken one after another while no notice starts. -/
theorem refusals_quiet (x : Fin 9) (y : RefusalReason) (z : Option Nat) (b : State) :
    ∀ (n : Nat) (a : State), SameNotice a b →
    (∀ k, k ≤ n → (b.afterRefusals x y z k).noticeCalled = false) →
    ∃ u more, (List.replicate n (Report.refusal x y z)).foldl
        (fun t r => (t.takeReport r).issueCounters.runExamination) a = u ∧
      SameNotice u (b.afterRefusals x y z n) ∧ OnlyCounters more ∧
      u = { a with
        path := { a.path with unissued := a.path.unissued ++ more }, fault := u.fault,
        composer := { a.composer with gather := u.composer.gather }, transit := u.transit } ∧
      u.transit.reports = a.transit.reports ∧
      (1 ≤ n → n < 65535 → Refused a u x n y z)
  | 0, a, h, _ =>
    ⟨a, [], rfl, h, by simp [OnlyCounters], by simp, rfl, fun h => absurd h (by omega)⟩
  | n + 1, a, h, hq => by
    obtain ⟨u, more, hu, h0, ho, h1, h2, h3⟩ :=
      refusals_quiet x y z b n a h fun k hk => hq k (Nat.le_succ_of_le hk)
    obtain ⟨v0, v1, v2, last, vo, v3⟩ := refusal_quiet h0 (hq (n + 1) (Nat.le_refl _))
    refine ⟨(u.takeRefusal x y z).issueCounters.runExamination, more ++ last, ?_, v0,
      onlyCounters_append ho vo, ?_, v2.trans h2, ?_⟩
    · rw [List.replicate_succ', List.foldl_append, hu]
      rfl
    · generalize (u.takeRefusal x y z).issueCounters.runExamination = v at *
      rw [v3]
      generalize v.fault = f at *
      generalize v.composer.gather = g at *
      generalize v.transit = w at *
      rw [h1]
      simp
    · intro _ hn
      by_cases h0 : n = 0
      · subst h0
        have : u = a := hu.symm
        rw [this] at v1
        rwa [this]
      · exact refused_next (by omega) (h3 (by omega) (by omega)) v1 (by omega)

/-- The end of a step that reports refusals of one kind. -/
theorem finish_refusals {b u : State} {n : Nat} {x : Fin 9} {y : RefusalReason} {z : Option Nat}
    (hm : b.mode = .running) (h1 : 1 ≤ n) (h2 : n < 65535)
    (hu : u = { b with transit := { reports := List.replicate n (.refusal x y z),
                                    examine := u.transit.examine } }) :
    EndsRefused b u.finish x n y z := by
  intro hb
  have hum : u.mode = .running := by rw [hu]; exact hm
  have hus : SameNotice ({ u with transit := { u.transit with reports := [] } }) b := by
    rw [hu]
    exact ⟨⟨rfl, rfl, rfl, rfl⟩, rfl⟩
  obtain ⟨v, first, hv, v0, vo, v1, v2, v3⟩ := refusals_quiet x y z b n _ hus hb
  have hd : u.drainReports = v := by
    unfold State.drainReports
    rw [← hv, hu]
  have hs : u.settle = { v with transit := Transit.empty } := by
    unfold State.settle
    rw [if_pos hum, hd,
      runExamination_quiet ((noticeCalled_congr v0).trans (hb n (Nat.le_refl _)))]
    unfold State.drainReports
    dsimp only
    rw [v2]
    rfl
  have hvb : v = { b with
      path := { b.path with unissued := b.path.unissued ++ first }, fault := v.fault,
      composer := { b.composer with gather := v.composer.gather }, transit := v.transit } := by
    generalize v.fault = f at *
    generalize v.composer.gather = g at *
    generalize v.transit = x at *
    rw [v1, hu]
  have hR : Refused b v x n y z := by
    have := v3 h1 h2
    rw [hu] at this
    exact this
  unfold State.finish
  rw [hs]
  obtain ⟨p1, p2, p3, more, p4, p5⟩ := pump_requests { v with transit := Transit.empty }
  generalize State.pump { v with transit := Transit.empty } = t at *
  refine ⟨?_, ⟨?_, first ++ more, ?_, onlyCounters_append vo p5⟩, refused_fault hR p3⟩
  · rw [p1]
    dsimp only
    generalize v.fault = f at *
    generalize v.composer.gather = g at *
    generalize v.transit = w at *
    rw [hvb]
  · rw [p2]
    dsimp only
    rw [congrArg State.path hvb]
  · rw [p4]
    unfold State.requests
    dsimp only
    rw [congrArg State.path hvb]
    simp

/-- A running part with nothing to hand on ends a step with no more than a counters write. -/
theorem finish_nothing {t : State} (hm : t.mode = .running)
    (hx : t.transit.reports = []) : EndsAs t t.finish [] [] := by
  refine finish_of hm ?_
  simp only [List.append_nil, List.map_nil]
  rw [← hx]

/-- The oldest request, with all its pieces ended, is answered; no other is. -/
theorem answer_last {t : State} {x : Taken} (h : t.path.outstanding = [x])
    (hd : x.parts.all Part.done = true) (hr : x.isReceipt = false) :
    t.answer = State.finish { t with
      path := { t.path with outstanding := [] }, responses := t.responses ++ [x.response] } := by
  unfold State.answer
  rw [h]
  show (State.answerAll (0 + 1) t).finish = _
  unfold State.answerAll
  rw [h]
  dsimp only
  rw [if_pos hd]
  unfold State.answerAll State.answerOne
  rw [if_neg (by rw [hr]; simp)]

end Sys2Proof.Machine
end

