-- ==== Sys2Proof/Tests/Slice0.lean ====
section
/-! SUPPORT. The model's own tests: operands the check refuses, the spec's worked figures, and for every statement with hypotheses a state and operands that meet them together. -/

open Sys2Proof Sys2Proof.Machine

namespace Sys2Proof.Tests

/-! ### Operands -/

theorem test_wellFormed_request :
    (Instr.upstreamRequest { offset := 5, access := .read 1 }).wellFormed = true ∧
      (Instr.upstreamRequest { offset := 5, access := .read 256 }).wellFormed = true := by decide

theorem test_illFormed_request_empty :
    (Instr.upstreamRequest { offset := 5, access := .write [] }).wellFormed = false := by decide

theorem test_illFormed_request_long :
    (Instr.upstreamRequest { offset := 5, access := .read 257 }).wellFormed = false := by decide

theorem test_illFormed_control_offset :
    (Instr.controlWindowWrite 4096 [none]).wellFormed = false := by decide

theorem test_illFormed_control_empty :
    (Instr.controlWindowWrite 0x40 []).wellFormed = false := by decide

theorem test_illFormed_control_two_lines :
    (Instr.controlWindowWrite 0x5F [none, none]).wellFormed = false := by decide

theorem test_illFormed_null_slot_marks :
    (Instr.activationMarkReached 0).wellFormed = false ∧
      (Instr.expiryMarkReached 0).wellFormed = false ∧
      (Instr.renewalDueMarkReached 0).wellFormed = false ∧
      (Instr.drainDeadlineReached 0).wellFormed = false := by decide

/-- An ill-formed command is turned away by name. -/
theorem test_illFormed_is_refused (s : State) :
    exec (.upstreamRequest { offset := 5, access := .read 257 }) s = .refused .notARequest ∧
      exec (.controlWindowWrite 0x5F [none, none]) s = .refused .notARequest := ⟨rfl, rfl⟩

/-! ### The spec's worked figures -/

/-- The eight edge cases of R36. -/
theorem test_reduction :
    [0, 1, 0x7FFFFFFE, 0x7FFFFFFF, 0x80000000, 0xFFFFFFFD, 0xFFFFFFFE, 0xFFFFFFFF].map reduceWord =
      [0, 1, 2147483646, 0, 1, 2147483646, 0, 1] := by decide

/-- The worked tag of chapter 2 and its two limit cases. -/
theorem test_worked_tag :
    tagOf 5 100 (tagWords [1, 0, 0, 0, 2, 0, 0xAB, 0xCD] 1 1 3 7 4021 6) = 1936910692 ∧
      tagOf 5 100 (tagWords [0xFF, 0xFF, 0xFF, 0xFF, 2, 0] 1 1 3 7 4021 6) = 1936910692 ∧
      ((2147483646 + reduceWord 0xFFFFFFFD) * 2147483646) % 2147483647 = 2 := by decide

/-- The counter block of the worked tag. -/
theorem test_worked_counter_block :
    (List.range 16).map (blockByte (counterBlock 1 1 3 7 0 0)) =
      [1, 1, 3, 0, 7, 0, 0, 0, 0, 0, 0, 0, 0, 0, 0, 0] := by decide

/-- The worked sequence of acceptance checks of chapter 4. -/
theorem test_worked_acceptance :
    acceptance 100 [95, 98, 100] 101 = .takeIn 101 [101, 95, 98, 100] ∧
      acceptance 101 [101, 95, 98, 100] 98 = .replayed ∧
      acceptance 101 [101, 95, 98, 100] 97 = .takeIn 101 [97, 101, 95, 98, 100] ∧
      acceptance 101 [97, 101, 95, 98, 100] 140 = .takeIn 140 [140] ∧
      acceptance 140 [140] 108 = .stale ∧ acceptance 140 [140] 109 = .takeIn 140 [109, 140] ∧
      acceptance 140 [109, 140] 141 = .takeIn 141 [141, 140] ∧
      acceptance 141 [141, 140] 0 = .stale := by decide

/-- The drain deadline that lies across the wrap (chapter 9). -/
theorem test_worked_wrap :
    ahead 4294967200 300 = 204 ∧ reached 4294967295 204 = false ∧ reached 0 204 = false ∧
      reached 203 204 = false ∧ reached 204 204 = true := by decide

/-! ### States -/

/-- A provisioned part after start-up: no records, nothing in progress, tick 100. -/
def base : State :=
  { State.reset with
    path := { State.reset.path with hold := false, startUpResultDone := true, internal := [] },
    renewal := { State.reset.renewal with storeId := 7, provisioned := true, fuseReadDone := true },
    time := { State.reset.time with tick := 100 },
    fault := { State.reset.fault with
      queue := [], postPending := false, postFence := false, countersArmed := true,
      countersStale := false, attn := false } }

/-- A window of two parcels of context 1. -/
def win (d : Direction) (role : Role) (q : ParcelRecord) : Window :=
  { base := 0x400000, count := 2, direction := d, role := role, context := 1,
    parcels := [q, ParcelRecord.blank] }

/-- The state with that window at index 2. -/
def withWin (d : Direction) (role : Role) (q : ParcelRecord) (s : State) : State :=
  { s with windows := s.windows.set 2 (some (win d role q)) }

/-- A slot of context 1 in use. -/
def key (st : SlotState) (generation : Nat) : KeySlot :=
  { KeySlot.blank with
    state := st, context := 1, generation := generation, budget := 100, nextSequence := 5,
    usage := 4, lifetime := 1000, hashKey := 3, expiryMark := 500, renewalDueMark := 400 }

/-- The state with a key in a slot. -/
def withKey (i : SlotId) (k : KeySlot) (s : State) : State :=
  { s with keys := { s.keys with slots := s.keys.slots.set i k } }

/-- A record. -/
def record (ordinal : Nat) (kind : RecordKind) (taken : Bool) (office : OfficeMark) : FaultRecord :=
  { ordinal := ordinal, tick := 3, age := 2, hostTaken := taken, office := office,
    event := { kind := kind, context := none, window := none, parcel := none, generation := none,
               detailA := 9, detailB := 4 } }

/-- The state with records in its queue. -/
def withQueue (q : List FaultRecord) (s : State) : State :=
  { s with fault := { s.fault with queue := q, nextOrdinal := 20, attn := attnLevel q } }

/-- The state with a running job and nothing waiting in the tag engine. -/
def withJob (run : Running) (s : State) : State :=
  { s with tag := { queue := [], running := some run, deferred := [], waitingSeal := none } }

/-- A granted request of a purpose at the result area. -/
def request (p : Purpose) (access : Access) : InternalRequest :=
  { purpose := p, ignored := false, address := 0xFFF020, access := access, orderPoint := 0 }

/-- The state in which that request is the oldest granted access, memory holding
some bytes where it reads. -/
def granted (p : Purpose) (access : Access) (bytes : List Byte) (s : State) : State :=
  { s with
    path := { s.path with flight := [.internal (request p access)] },
    mem := Memory.store s.mem 0xFFF020 (bytes.map some) }

/-- The request of an argument read. -/
def argumentRead : InternalRequest :=
  { request .argument (.read 32) with address := 0xFFF000 }

/-- The state in which the argument read of a command of some code is to return words. -/
def reading (code : Nat) (words : List Nat) (s : State) : State :=
  { s with
    mem := Memory.store s.mem 0xFFF000
      ((leBytes 4 code ++ (words.map (leBytes 4)).flatten).map some),
    path := { s.path with flight := [.internal argumentRead] },
    command := { s.command with phase := .readingArguments, code := code, ticket := 17 } }

/-- Words as an argument line holds them. -/
def line (l : List Nat) : List Nat :=
  (List.range 7).map fun k => l.getD k 0

theorem reads (code : Nat) (words : List Nat) (s : State)
    (h : line words = argumentWords ((reading code words s).returned 0xFFF000 (.read 32))) :
    ArgumentsRead (reading code words s) code (line words) [] :=
  ⟨argumentRead, ⟨rfl, rfl, rfl⟩, rfl, rfl, h⟩

/-- The state a command leads to. -/
def after (c : Instr) (s : State) : State :=
  match exec c s with
  | .next t => t
  | .fault _ => s
  | .refused _ => s

/-- Does a command lead to a next state? -/
def goes (c : Instr) (s : State) : Bool :=
  match exec c s with
  | .next _ => true
  | .fault _ => false
  | .refused _ => false

/-! ### Hypotheses met: the block, memory, resets -/

/-- A plain read. -/
def read (offset n : Nat) : Request :=
  { offset := offset, access := .read n }

/-- A plain write. -/
def write (offset : Nat) (bytes : List (Option Byte)) : Request :=
  { offset := offset, access := .write bytes }

/-- The state with a request waiting alone on its port. -/
def withPort (r : Request) (s : State) : State :=
  { s with path := { s.path with port := [r] } }

/-- base with one command waiting. -/
def waiting (c : Instr) : State :=
  { base with pending := [c] }

theorem hyp_StepRunsFrontCommand :
    (waiting .tick).pending = .tick :: [] ∧ base.pending = [] := by decide

theorem hyp_CommandsNeverStop :
    (Instr.controlWindowWrite 4095 [some 1]).wellFormed = true ∧
      (Instr.drainDeadlineReached 15).wellFormed = true := by decide

/-- Two windows at the edges: one of a single parcel at address 0, and one of 64
parcels just below the control window. -/
def edges : State :=
  { waiting .heartbeat with windows := (base.windows.set 1 (some
      { base := 0, count := 1, direction := .outbound, role := .notice, context := 0,
        parcels := [ParcelRecord.blank] })).set 5 (some
      { base := 16642048, count := 64, direction := .inbound, role := .renewal, context := 3,
        parcels := List.replicate 64 ParcelRecord.blank }) }

/-- The premises of the statements about every step. -/
theorem hyp_StepKeeps :
    MemoryCanonical (waiting .heartbeat) ∧ AttnFollows (waiting .heartbeat) ∧
      NullSlotBlank (waiting .heartbeat) ∧ OneEach (waiting .heartbeat) ∧
      WithinBounds (waiting .heartbeat) ∧ Settled (waiting .heartbeat) ∧ WindowsLaidOut edges ∧
      (∃ t, step (waiting .heartbeat) = .next t) ∧ ∃ t, step edges = .next t :=
  ⟨by decide, by decide, by decide, by decide, by decide, by decide, by decide, ⟨_, rfl⟩, _, rfl⟩

theorem hyp_OnlyGrantedWritesReachMemory :
    let s := granted .post (.write [some 1, none]) [] base
    MemoryCanonical s ∧ (∃ t, exec .tick s = .next t) ∧
      ∀ f ∈ s.path.flight, ∀ bytes, f.access = .write bytes →
        Outside 0xFFF01F f.address bytes.length := by
  refine ⟨by decide, ⟨_, rfl⟩, ?_⟩
  intro f hf bytes h
  simp only [granted, List.mem_singleton] at hf
  subst hf
  injection h with h
  subst h
  decide

theorem hyp_CompletedAccessInMemory :
    MemoryCanonical base ∧ 16777214 + [some (1 : Byte), none].length ≤ 16777216 := by decide

/-- A part that drains for a RESTART, with a granted write and a waiting piece. -/
def draining : State :=
  { granted .post (.write [some 1]) [] base with
    mode := .restarting,
    path := { (granted .post (.write [some 1]) [] base).path with
      passing := [{ serial := 0, address := 5, access := .read 1, keystream := [] }] } }

theorem hyp_ResetsGiveResetValues :
    ({ base with mode := .resetLow } : State).mode = .resetLow ∧
      (({ base with mode := .restarting } : State).mode = .restarting ∧
        ({ base with mode := .restarting } : State).path.passing = [] ∧
        ({ base with mode := .restarting } : State).path.flight = []) ∧
      draining.mode = .restarting ∧ draining.path.passing ≠ [] := by decide

theorem hyp_HeldPartDropsItsWork :
    (base.mode = .running ∧ draining.mode = .restarting) ∧
      (∃ f bytes, draining.path.flight = [f] ∧ f.access = .write bytes ∧
        MemoryCanonical draining ∧ f.address + bytes.length ≤ 16777216) ∧
      ({ base with mode := .scanHeld } : State).mode = .scanHeld ∧
      ({ base with mode := .resetLow } : State).mode = .resetLow :=
  ⟨by decide, ⟨.internal (request .post (.write [some 1])), [some 1], rfl, rfl, by decide,
    by decide⟩, by decide, by decide⟩

theorem hyp_FuseProgrammingSetsBits :
    State.reset.fuses.lock = false ∧
      ({ base with fuses := { base.fuses with lock := true } } : State).fuses.lock = true := by
  decide

theorem hyp_StartUpEnds :
    let s : State := { State.reset with fuses := { State.reset.fuses with storeId := 7 } }
    let r := request .startUpResult (.read 1)
    (Quiet s ∧ s.renewal.fuseReadDone = false ∧ s.fault.queue = [startedRecord .powerOn] ∧
      (startedRecord .powerOn).event.kind = .started ∧
      (startedRecord .powerOn).hostTaken = false ∧ s.path.port = [] ∧ s.noticeWindow = none) ∧
    Quiet (granted .startUpResult (.read 1) [] s) ∧
    Oldest (granted .startUpResult (.read 1) [] s) .startUpResult r [] ∧ s.path.port = [] := by
  decide

/-- A request for open memory that waits until the read of the fuse store ends the
hold, and one for the control window that waits until the start-up write does. -/
theorem hyp_StartUpEnds_waiting :
    let s := withPort (read 0x1000 4) State.reset
    let q := request .startUpResult (.read 1)
    let t := withPort (read 0xFFF060 4) (granted .startUpResult (.read 1) [] base)
    Takeable { s with
        renewal := { s.renewal with fuseReadDone := true },
        fault := { s.fault with posted := some 1, postPending := false },
        path := { s.path with hold := s.path.hold && !true } } (read 0x1000 4) ∧
      Takeable { t.landed q [] true with
        path := { t.path with
          flight := [], startUpResultDone := true, hold := true && !t.renewal.fuseReadDone } }
        (read 0xFFF060 4) := by
  decide

/-! ### Hypotheses met: upstream requests -/

theorem hyp_RequestsAreCut :
    (read 0 1).wellFormed = true ∧ Request.refusedWhole (read 0 1) = none ∧
      (read 1 256).wellFormed = true ∧ Request.refusedWhole (read 1 256) = none ∧
      (write 0x1FFFFFE [some 1, none]).wellFormed = true ∧
      Request.refusedWhole (write 0x1FFFFFE [some 1, none]) = none := by decide

theorem hyp_RequestsRefusedWhole :
    Quiet base ∧ base.path.hold = false ∧ base.path.port = [] ∧ base.path.outstanding = [] ∧
      base.noticeWindow = none ∧
      ((read 33554432 1).wellFormed = true ∧ 33554432 ≤ (read 33554432 1).offset) ∧
      (read 2047 2).wellFormed = true ∧ (read 2047 2).offset < 33554432 ∧
      (read 2047 2).offset / 2048 ≠ ((read 2047 2).offset + (read 2047 2).access.count - 1) / 2048 := by
  decide

/-- The passing stream holds 32 pieces. -/
def crowded : State :=
  { base with path := { base.path with
      passing := List.replicate 32 { serial := 0, address := 5, access := .read 1, keystream := [] } } }

theorem hyp_RequestsWait :
    (read 0xFFF060 4).wellFormed = true ∧
      ({ base with path := { base.path with hold := true } } : State).path.hold = true ∧
      draining.mode ≠ .running ∧
      (crowded.path.port = [] ∧ Request.refusedWhole (read 0xFFF060 4) = none ∧
        32 < crowded.passingCount + Request.pieceCount (read 0xFFF060 4)) ∧
      base.path.port = [] ∧ Request.isControl (read 0xFFF060 4) = true ∧
      ({ base with fault := { base.fault with postFence := true } } : State).fault.postFence = true ∧
      ∃ x ∈ ({ base with path := { base.path with
          outstanding := [{ request := read 0xFFF060 4, parts := [.waiting] }] } } : State).path.outstanding,
        Request.isControl x.request = true := by decide

/-- A request to the bytes just below a window, and one that enables no byte. -/
theorem hyp_OpenMemoryRequests :
    let s := withWin .outbound .data ParcelRecord.blank base
    let r := read 0x3FFFE0 32
    let q := write 0x401000 [none]
    (Quiet s ∧ Ready s r ∧ r.wellFormed = true ∧ Request.refusedWhole r = none ∧
      Request.isControl r = false ∧ s.noticeWindow = none ∧
      (∀ w, ∀ e ∈ s.window w, r.offset % 16777216 + r.access.count ≤ e.base ∨
        e.base + 2048 * e.count ≤ r.offset % 16777216) ∧
      ∀ c ∈ Request.pieces r, Access.allClear c.access = false) ∧
    Ready s q ∧ q.wellFormed = true ∧ Request.refusedWhole q = none ∧ Request.isControl q = false ∧
      (∀ w, ∀ e ∈ s.window w, q.offset % 16777216 + q.access.count ≤ e.base ∨
        e.base + 2048 * e.count ≤ q.offset % 16777216) ∧
      Access.allClear q.access = true ∧ s.path.outstanding = [] := by decide

/-- Pieces that are refused, pass, open, are enciphered, are deciphered, release,
arrive and mark. -/
theorem hyp_WindowPieces :
    Access.allClear (.write [some (1 : Byte)]) = false ∧
      decideAccess .raw .outbound .data false true .free false false = .refused .outboundRaw ∧
      decideAccess .plain .outbound .data true false .free false false = .passes ∧
      decideAccess .plain .outbound .data false true .free false false = .opens ∧
      decideAccess .plain .outbound .data false true .filling false false = .enciphered ∧
      decideAccess .plain .outbound .data false false .sealed false false = .deciphered ∧
      decideAccess .raw .outbound .data true true .sealed true false = .releases ∧
      decideAccess .raw .inbound .data false true .free false false = .arrives ∧
      decideAccess .raw .inbound .data true true .arriving false true = .marks := by decide

/-- Requests of one piece that passes, is enciphered, is deciphered, releases a parcel
and arrives at one. -/
theorem hyp_WindowPieces_requests :
    let s := fun (d : Direction) (st : ParcelState) =>
      withWin d .data { ParcelRecord.blank with state := st } base
    let one := fun (d : Direction) (st : ParcelState) (r : Request) (side : Alias) =>
      Quiet (s d st) ∧ Ready (s d st) r ∧
        OnePiece (s d st) r side 2 (win d .data { ParcelRecord.blank with state := st }) 0
          { ParcelRecord.blank with state := st } ∧ (s d st).noticeWindow = none ∧
        Access.allClear r.access = false
    (one .outbound .free (read 0x400000 32) .plain ∧
      decideAccess .plain .outbound .data true false .free false false = .passes) ∧
    (one .outbound .filling (write 0x40003F [some 1]) .plain ∧
      decideAccess .plain .outbound .data false true .filling false false = .enciphered) ∧
    (one .outbound .sealed (read 0x4007FF 1) .plain ∧
      decideAccess .plain .outbound .data false false .sealed false false = .deciphered) ∧
    (one .outbound .sealed (write 0x140001C (List.replicate 4 (some 0))) .raw ∧
      isReleaseWrite 28 (List.replicate 4 (some 0)) = true ∧
      decideAccess .raw .outbound .data true true .sealed true false = .releases) ∧
    one .inbound .free (write 0x140003F [some 1]) .raw ∧
      decideAccess .raw .inbound .data false true .free false false = .arrives := by
  and_intros <;> decide

/-- A burst of which the head line passes and two payload lines are refused, and one all
of whose two pieces are refused, from the first byte of a parcel and up to its last. -/
theorem hyp_WindowPieces_burst :
    let s := withWin .outbound .data ParcelRecord.blank base
    let burst := fun (r : Request) (side : Alias) =>
      Quiet s ∧ Ready s r ∧ WindowsLaidOut s ∧ r.wellFormed = true ∧
        Request.refusedWhole r = none ∧ (Request.isControl r) = false ∧
        aliasOf r.offset = some side ∧ s.locate (r.offset % 16777216) = some (2, 0) ∧
        s.noticeWindow = none
    let parts := fun (r : Request) (side : Alias) => (s.tookEach side 2 0 (Request.pieces r)).2
    (burst (read 0x400000 96) .plain ∧
      parts (read 0x400000 96) .plain = [.waiting, .notServed 32, .notServed 32]) ∧
    (burst (write 0x14007DF (List.replicate 33 (some 1))) .raw ∧ s.path.outstanding = [] ∧
      parts (write 0x14007DF (List.replicate 33 (some 1))) .raw =
        [.notServed 1, .notServed 32]) := by
  and_intros <;> decide

theorem hyp_RefusedPieces :
    let s := withWin .outbound .data ParcelRecord.blank base
    let e := win .outbound .data ParcelRecord.blank
    let r := read 0x400020 5
    let q := write 0x400021 [none, some 3]
    Quiet s ∧ s.path.outstanding = [] ∧ s.noticeWindow = none ∧
      (Ready s r ∧ OnePiece s r .plain 2 e 0 ParcelRecord.blank ∧
        decideAccess .plain .outbound .data false false .free false false = .refused .notOpen) ∧
      Ready s q ∧ OnePiece s q .plain 2 e 0 ParcelRecord.blank ∧
        decideAccess .plain .outbound .data false true .free false false = .opens ∧
        s.usableSlot e.context = none := by decide

/-- A write to the last line of a parcel under a generation with budget left, under one
whose last open this is with nothing staged, and under one with a staged head. -/
theorem hyp_OpeningWrite :
    let s := fun (used : Nat) => withKey 3 { key .active 9 with usage := used }
      (withWin .outbound .data ParcelRecord.blank base)
    let staged := withKey 6 { key .staged 11 with usage := 0 } (s 99)
    let e := win .outbound .data ParcelRecord.blank
    let r := write 0x400FE0 (List.replicate 32 (some 3))
    (Quiet (s 98) ∧ Ready (s 98) r ∧ OnePiece (s 98) r .plain 2 e 1 ParcelRecord.blank ∧
      r.access = .write (List.replicate 32 (some 3)) ∧ Access.allClear r.access = false ∧
      e.base % 2048 = 0 ∧ e.direction = .outbound ∧ e.role = .data ∧
      ParcelRecord.blank.state = .free ∧ 32 ≤ (r.offset % 16777216 - e.base) % 2048 ∧
      (s 98).noticeWindow = none) ∧
    (∃ o events, Opens (s 98) 2 1 e.context 3 .controller o events) ∧
    (∃ o events, Opens (s 99) 2 1 e.context 3 .controller o events) ∧
    (Quiet staged ∧ Ready staged r ∧ OnePiece staged r .plain 2 e 1 ParcelRecord.blank) ∧
    ∃ o events, Opens staged 2 1 e.context 3 .controller o events :=
  ⟨by decide, ⟨_, _, by decide, by decide, .inl ⟨by decide, rfl, rfl⟩⟩,
    ⟨_, _, by decide, by decide, .inl ⟨by decide, rfl, rfl⟩⟩, by decide,
    ⟨_, _, by decide, by decide, .inr ⟨by decide, by decide, [(1, 6)],
      ⟨6, by decide, .inl (by decide)⟩, rfl, rfl⟩⟩⟩

/-- The bytes of a marker write that starts at byte 27 of the head line. -/
def marker : List (Option Byte) :=
  [none, some 0xE9, some 0xC3, some 0x17, some 0x5A]

/-- The engine free, running, and full. -/
theorem hyp_MarkerWrite :
    let s := withWin .inbound .data ParcelRecord.blank base
    let job : Job := { window := 2, parcel := 1, kind := .check, orderPoint := 0 }
    let busy := withJob { job := job, head := none, payload := [], linesLeft := 0 } s
    let full : State := { busy with tag := { busy.tag with queue := List.replicate 16 job } }
    let e := win .inbound .data ParcelRecord.blank
    let r := write 0x140001B marker
    (Quiet s ∧ Ready s r ∧ OnePiece s r .raw 2 e 0 ParcelRecord.blank ∧
      r.access = .write marker ∧ e.direction = .inbound ∧ ParcelRecord.blank.state = .free ∧
      (r.offset % 16777216 - e.base) % 2048 / 32 = 0 ∧
      isMarkerWrite ((r.offset % 16777216 - e.base) % 2048 % 32) marker = true ∧
      s.noticeWindow = none ∧
      s.tag = { queue := [], running := none, deferred := [], waitingSeal := none }) ∧
    (Ready busy r ∧ OnePiece busy r .raw 2 e 0 ParcelRecord.blank ∧ busy.tag.running ≠ none ∧
      busy.tag.queue.length < 16 ∧ busy.tag.deferred = [] ∧ busy.tag.waitingSeal = none) ∧
    Ready full r ∧ OnePiece full r .raw 2 e 0 ParcelRecord.blank ∧ full.tag.queue.length = 16 :=
  ⟨by decide, by decide, by decide⟩

/-! ### Hypotheses met: the control window and the streams -/

/-- A command in progress. -/
def inProgress : State :=
  { base with command := { base.command with phase := .readingArguments } }

/-- A piece of the result area, one of the command area while a command is in
progress, the command word, a byte of the heartbeat word and a spare byte. -/
theorem hyp_ControlPieceDecisions :
    (controlPieceWellFormed 0x3F [some 1] = true ∧ base.mode = .running ∧
      (0x3F ≤ 0x3F ∧ ∃ v : Byte, [some (1 : Byte)][0x3F - 0x3F]? = some (some v))) ∧
    (controlPieceWellFormed 0x1F [some 1] = true ∧ inProgress.mode = .running ∧
      inProgress.command.phase ≠ .idle) ∧
    (controlPieceWellFormed 0 [some 1, some 2, some 3, some 4] = true ∧
      base.command.phase = .idle) ∧
    controlPieceWellFormed 0x43 [some 1] = true ∧
    controlPieceWellFormed 0x44 [some 1] = true :=
  ⟨⟨by decide, by decide, by decide, 1, rfl⟩, by decide, by decide, by decide, by decide⟩

/-- A spare byte, a byte at the end of the heartbeat word, the command word, and a byte
of a part-owned area. -/
theorem hyp_ControlWindowWrites :
    let r := write (16773120 + 0x44) [some 3, none]
    let h := write (16773120 + 0x43) [some 3]
    let c := write 16773120 [some 200, some 1, some 2, some 3]
    let q := write (16773120 + 0x9F) [some 3]
    Quiet base ∧ base.noticeWindow = none ∧
      (controlPieceWellFormed 0x44 [some 3, none] = true ∧ Ready base r ∧
        commandWordOf 0x44 [some 3, none] = none ∧ ∃ v : Byte, some v ∈ [some 3, none]) ∧
      (controlPieceWellFormed 0x43 [some 3] = true ∧ Ready base h) ∧
      (controlPieceWellFormed 0 [some 200, some 1, some 2, some 3] = true ∧ Ready base c ∧
        base.command.phase = .idle) ∧
      controlPieceWellFormed 0x9F [some 3] = true ∧ Ready base q ∧ base.path.outstanding = [] :=
  ⟨by decide, by decide, ⟨by decide, by decide, by decide, 3, by decide⟩, by decide, by decide,
    by decide, by decide, by decide⟩

/-- A raw write and a plain read of the control window, each of two pieces, the read while
a command is in progress. -/
theorem hyp_ControlWindowWrites_aliases :
    let w := write 0x1FFF01F [some 1, some 2]
    let r := read 0xFFF05F 2
    Quiet base ∧ base.noticeWindow = none ∧ base.path.outstanding = [] ∧
      (Ready base w ∧ w.wellFormed = true ∧ (Request.isControl w) = true ∧
        16777216 ≤ w.offset) ∧
      Quiet inProgress ∧ Ready inProgress r ∧ r.wellFormed = true ∧
      (Request.isControl r) = true ∧ r.offset < 16777216 ∧ r.access.isWrite = false := by decide

/-- A granted read piece of a request. -/
def flying (r : Request) (parts : List Part) : State :=
  { base with path := { base.path with
      flight := [.passing { serial := 4, address := r.offset, access := r.access, keystream := [] }],
      outstanding := [{ request := r, parts := parts }] } }

/-- A piece with another behind it, the last piece, and the last piece of a receipt. -/
theorem hyp_PassingPieceCompletes :
    let two := flying (read 0x1000 5) [.waiting, .waiting]
    let last := flying (read 0x1000 5) [.notServed 3, .waiting]
    let receipt := flying (read 0xFFF060 4) [.waiting]
    (Quiet two ∧ two.path.port = [] ∧ [].all Part.done = true ∧
      (∀ y ∈ ([] : List Taken).head?, y.parts.all Part.done = false) ∧
      [Part.waiting].all Part.done = false ∧ two.noticeWindow = none) ∧
    (Quiet last ∧ [Part.notServed 3].all Part.done = true ∧ ([] : List Part).all Part.done = true ∧
      ({ request := read 0x1000 5, parts := [.notServed 3, .served [0, 0]] } : Taken).isReceipt =
        false) ∧
    Quiet receipt ∧
      ({ request := read 0xFFF060 4, parts := [.served [0, 0, 0, 0]] } : Taken).isReceipt = true := by
  decide

/-- A request that waits for room behind a piece that leaves it, one for the control
window that waits for the response before it, and one that waits for a receipt; and a
part that drains for a RESTART. -/
theorem hyp_PassingPieceCompletes_waiting :
    let full := List.replicate 31
      ({ serial := 0, address := 5, access := .read 1, keystream := [] } : Piece)
    let two := withPort (read 0x2000 1) (flying (read 0x1000 5) [.waiting, .waiting])
    let crowded : State := { two with path := { two.path with passing := full } }
    let control := withPort (read 0xFFF080 4) (flying (read 0xFFF080 4) [.waiting])
    let receipt := withPort (read 0x2000 1) (flying (read 0xFFF060 4) [.waiting])
    Takeable { crowded with path := { crowded.path with
        flight := [],
        outstanding := [{ request := read 0x1000 5, parts := [.served [0, 0], .waiting] }] } }
      (read 0x2000 1) ∧
    (Takeable { control with path := { control.path with flight := [], outstanding := [] } }
        (read 0xFFF080 4) ∧
      ({ request := read 0xFFF080 4, parts := [.served [0, 0, 0, 0]] } : Taken).isReceipt =
        false) ∧
    Takeable (State.takeReceipt
      { receipt with path := { receipt.path with flight := [], outstanding := [] } })
        (read 0x2000 1) ∧
    ({ two with mode := .restarting } : State).mode = .restarting ∧
      Settled { two with mode := .restarting } := by
  and_intros <;> decide

/-- A passing piece whose rival is a read that must wait for it, and an internal write
with its turn. -/
theorem hyp_ArbiterGrants :
    let piece : Piece := { serial := 0, address := 5, access := .write [some 1], keystream := [] }
    let late : InternalRequest := { request .sealRead (.read 32) with orderPoint := 1 }
    let barred : State := { base with path := { base.path with
        passing := [piece], internal := [late], turn := .internal } }
    let both : State := { base with path := { base.path with
        passing := [piece], internal := [request .post (.write [some 1])], turn := .internal } }
    (barred.mode = .running ∧ barred.path.passing = piece :: [] ∧
      barred.path.internal = late :: [] ∧ late.access.isWrite = false ∧
      (∃ p ∈ barred.path.passing, p.access.isWrite = true ∧ p.serial < late.orderPoint)) ∧
    both.path.internal = request .post (.write [some 1]) :: [] ∧
      (request .post (.write [some 1])).access.isWrite = true ∧ both.path.turn = .internal := by
  decide

/-! ### Hypotheses met: the fault unit -/

/-- Eight records. -/
def fullQueue : List FaultRecord :=
  (List.range 8).map fun k => record (k + 1) .stale false .notRequired

theorem hyp_EventsBecomeRecords :
    (withQueue (fullQueue.take 7) base).fault.queue.length < 8 ∧
      8 ≤ (withQueue fullQueue base).fault.queue.length ∧
      ((withQueue fullQueue base).counter 8).value = 0 := by decide

/-- base with a posted record among others. -/
def posted (o : Option Nat) (q : List FaultRecord) : State :=
  let s := withQueue q base
  { s with fault := { s.fault with posted := o } }

/-- A pending posting, an unsound post, nothing posted, a posted record at NO, one
at YES, and one at NOT_REQUIRED with kinds lost. -/
theorem hyp_ReceiptTakesRecord :
    let pending : State := { base with fault := { base.fault with postPending := true } }
    let unsound : State := { base with fault := { base.fault with postSound := false } }
    let no := posted (some 4) [record 3 .stale false .yes, record 4 .started false .no]
    let yes := posted (some 4) [record 4 .started false .yes, record 5 .stale false .no]
    let lost : State :=
      { posted (some 4) [record 4 .started false .notRequired] with
        fault := { (posted (some 4) [record 4 .started false .notRequired]).fault with
          overflow := [.stale] } }
    (Quiet pending ∧ pending.fault.postPending = true) ∧
    (Quiet unsound ∧ unsound.fault.postPending = false ∧ unsound.fault.postSound = false) ∧
    (Quiet base ∧ base.fault.postSound = true ∧ base.fault.posted = none) ∧
    (Quiet no ∧ no.fault.postPending = false ∧ no.fault.postSound = true ∧
      no.fault.queue = [record 3 .stale false .yes] ++ record 4 .started false .no :: [] ∧
      (∀ x ∈ [record 3 .stale false .yes] ++ [], x.ordinal ≠ 4 ∧ x.leaves = false)) ∧
    (Quiet yes ∧ yes.fault.queue = [] ++ record 4 .started false .yes :: [record 5 .stale false .no] ∧
      (∀ x ∈ [] ++ [record 5 .stale false .no], x.ordinal ≠ 4 ∧ x.leaves = false) ∧
      yes.fault.overflow = []) ∧
    Quiet lost ∧ lost.fault.queue = [] ++ record 4 .started false .notRequired :: [] ∧
      lost.fault.overflow ≠ [] ∧ lost.noticeWindow = none :=
  ⟨by decide, by decide, by decide, by decide, by decide, by decide⟩

/-- The posted record while it stands, the oldest of the highest severity, the
record a counter is linked to, and no record. -/
theorem hyp_PostIsIssued :
    let q := [record 3 .stale true .no, record 4 .started false .no,
      record 5 .refusedAccess false .no]
    let pend := fun (s : State) =>
      ({ s with fault := { s.fault with postPending := true } } : State)
    let linked := pend ((posted none [record 5 .refusedAccess false .no]).setCounter 3
      { value := 4, firstReason := none, firstParcel := none, link := some 5 })
    (Quiet (pend (posted (some 4) q)) ∧ (pend (posted (some 4) q)).renewal.fuseReadDone = true ∧
      (pend (posted (some 4) q)).internalCount < 16 ∧
      (∀ x ∈ (pend (posted (some 4) q)).path.outstanding, Request.isControl x.request = false) ∧
      q = [record 3 .stale true .no] ++ record 4 .started false .no ::
        [record 5 .refusedAccess false .no] ∧
      (∀ x ∈ [record 3 .stale true .no], x.ordinal ≠ 4) ∧
      (pend (posted (some 4) q)).linkedCounter 4 = none) ∧
    (Quiet linked ∧ linked.fault.postPending = true ∧
      linked.fault.queue = [] ++ record 5 .refusedAccess false .no :: [] ∧
      (∀ x ∈ linked.fault.queue, x.hostTaken = false → linked.fault.posted ≠ some x.ordinal) ∧
      linked.linkedCounter 5 = some 3) ∧
    Quiet (pend base) ∧ ∀ x ∈ (pend base).fault.queue, x.hostTaken = true :=
  ⟨by decide, by decide, by decide, by decide⟩

/-- With no request waiting, and with one that waits for the fence. -/
theorem hyp_PostWriteCompletes :
    let s := granted .post (.write [some 1]) [] base
    let r := request .post (.write [some 1])
    let fenced := withPort (read 0xFFF060 4) { s with fault := { s.fault with postFence := true } }
    Quiet s ∧ Oldest s .post r [] ∧ s.path.port = [] ∧
      (∀ q ∈ s.requests, q.purpose ≠ .post) ∧ s.noticeWindow = none ∧
      Quiet fenced ∧ Oldest fenced .post r [] ∧ (∀ q ∈ fenced.requests, q.purpose ≠ .post) ∧
      Takeable { fenced.landed r [] false with fault := { fenced.fault with
        postSound := true, postFence := fenced.fault.postPending, countersArmed := true } }
        (read 0xFFF060 4) := by decide

/-- The first post write after a reset. -/
theorem hyp_PostWriteCompletes_first :
    let s : State := { granted .post (.write [some 1]) [] base with
      fault := { base.fault with countersArmed := false, countersStale := true } }
    Quiet s ∧ Oldest s .post (request .post (.write [some 1])) [] ∧ s.path.port = [] ∧
      (∀ q ∈ s.requests, q.purpose ≠ .post) ∧ s.noticeWindow = none ∧
      s.fault.postPending = false ∧ s.fault.countersArmed = false ∧
      s.fault.countersWriting = false ∧ s.path.unissued = [] ∧ s.internalCount ≤ 16 := by decide

/-- A current image and a stale one. -/
theorem hyp_CountersWriteCompletes :
    let s := granted .counters (.write [some 1]) [] base
    let stale : State := { s with fault := { s.fault with countersWanted := true } }
    Quiet s ∧ Oldest s .counters (request .counters (.write [some 1])) [] ∧
      s.path.unissued = [] ∧ s.internalCount ≤ 16 ∧ s.fault.countersArmed = true ∧
      s.fault.countersWanted = false ∧ stale.fault.countersWanted = true ∧
      Oldest stale .counters (request .counters (.write [some 1])) [] := by decide

/-! ### Hypotheses met: time -/

theorem hyp_TickAdvances :
    (base.mode = .running ∧ ∀ m ∈ allReports, base.reportDue m = false) ∧
      ({ base with mode := .resetLow } : State).mode ≠ .running := by decide

theorem hyp_MarksAreReachedOnTime :
    (1073741824 ≤ 1073741824 ∧ 1073741823 < 1073741824) ∧
      1073741824 ≤ 3221225471 ∧ 3221225471 < 1073741824 + 2147483648 := by decide

/-- base with marks at 90, which tick 100 has reached. -/
def marks : State :=
  let due : Mark := { value := some 90, latch := false }
  { base with
    time := { base.time with
      heartbeat := { period := 50, mark := due, silent := false },
      links := base.time.links.set 2 { period := 50, mark := due, silent := false } },
    composer := { base.composer with gather := due, retry := due } }

theorem hyp_HeartbeatRestartsWatch :
    Quiet base ∧ base.time.heartbeat.period = 0 ∧ Quiet marks ∧
      marks.time.heartbeat.period ≠ 0 ∧ marks.noticeWindow = none := by decide

theorem hyp_WatchAndComposerMarksReached :
    let due : Mark := { value := some 90, latch := false }
    Quiet marks ∧ reached marks.time.tick 90 = true ∧ marks.time.heartbeat.mark = due ∧
      (marks.link 2).mark = due ∧ marks.composer.gather = due ∧ marks.composer.retry = due ∧
      marks.noticeWindow = none ∧
      base.time.heartbeat.mark.value = none ∧ (base.link 2).mark.value = none := by decide

/-- A mark that lies one tick ahead, and one already latched. -/
theorem hyp_WatchAndComposerMarksReached_notDue :
    let ahead : Mark := { value := some 101, latch := false }
    let latched : Mark := { value := some 90, latch := true }
    base.time.tick = 100 ∧
      (∀ u, ahead = { value := some u, latch := false } → reached base.time.tick u = false) ∧
      ∀ u, latched = { value := some u, latch := false } → reached base.time.tick u = false := by
  refine ⟨by decide, fun u h => ?_, fun u h => ?_⟩
  · injection h with h1
    injection h1 with h1
    rw [← h1]
    decide
  · injection h with _ h2
    cases h2

/-- A NOTICE window, a usable generation that has used some of its budget of 100, and
records at NO. -/
def noticeable (used : Nat) : State :=
  let s := withKey 3 { key .active 9 with usage := used }
    (withWin .outbound .notice ParcelRecord.blank
      (withQueue [record 4 .started false .no, record 5 .stale false .yes] base))
  { s with composer := { s.composer with gather := { value := some 90, latch := false } } }

/-- The notice starts under the window's context, whose generation has budget left, or
is exhausted by it with nothing staged or with a staged head. A notice that has started
is in progress, so no other is called for. -/
theorem hyp_NoticeStarts :
    let s := noticeable 4
    let staged := withKey 6 { key .staged 11 with usage := 0 } (noticeable 99)
    let e := win .outbound .notice ParcelRecord.blank
    (Quiet s ∧ s.composer.phase = .idle ∧
      s.composer.gather = { value := some 90, latch := false } ∧
      reached s.time.tick 90 = true ∧ s.composer.retry.value = none ∧
      s.noticeWindow = some 2 ∧ s.window 2 = some e ∧ e.direction = .outbound ∧
      s.parcel 2 s.composer.ring = some ParcelRecord.blank ∧
      [record 4 .started false .no] =
        (s.fault.queue.filter fun r => decide (r.office = .no)).take 4 ∧
      (s.link 1).silent = false) ∧
    (∃ o events, Opens s 2 s.composer.ring 1 3 .composer o events) ∧
    (∃ o events, Opens (noticeable 99) 2 0 1 3 .composer o events) ∧
    (Quiet staged ∧ staged.noticeWindow = some 2 ∧ staged.composer.phase = .idle ∧
      (staged.link 1).silent = false) ∧
    ∃ o events, Opens staged 2 staged.composer.ring 1 3 .composer o events :=
  ⟨by decide, ⟨_, _, by decide, by decide, .inl ⟨by decide, rfl, rfl⟩⟩,
    ⟨_, _, by decide, by decide, .inl ⟨by decide, rfl, rfl⟩⟩, by decide,
    ⟨_, _, by decide, by decide, .inr ⟨by decide, by decide, [(1, 6)],
      ⟨6, by decide, .inl (by decide)⟩, rfl, rfl⟩⟩⟩

/-! ### Hypotheses met: keys -/

/-- Context 1 with ACTIVE generation 9, DRAINING generation 8, and generation 11
staged in slot 6 in mode AT_MARK. -/
def keyed : State :=
  withKey 5 (key .active 9) (withKey 2 (key .draining 8)
    (withKey 6 { key .staged 11 with mode := .atMark, activationMark := 80 } base))

/-- The state at a later tick. -/
def atTick (n : Nat) (s : State) : State :=
  { s with time := { s.time with tick := BitVec.ofNat 32 n } }

/-- keyed under PAIRS, context 0 having a staged head of mode WITH_GROUP. -/
def paired : State :=
  let s := withKey 8 { key .staged 3 with context := 0, mode := .withGroup } keyed
  { s with keys := { s.keys with grouping := .pairs } }

/-- keyed with an AT_MARK tail whose mark has been reached. -/
def tailed : State :=
  withKey 7 { key .staged 12 with mode := .atMark, activationLatch := true } keyed

/-- A changeover alone, one that its group follows, and one that promotes a tail whose
own trigger applies. -/
theorem hyp_Cascades :
    Cascades keyed 1 [(1, 6)] ∧ Cascades paired 1 [(1, 6), (0, 8)] ∧
      Cascades tailed 1 [(1, 6), (1, 7)] :=
  ⟨⟨6, by decide, .inl (by decide)⟩, ⟨6, by decide, .inl (by decide)⟩,
    ⟨6, by decide, .inr ⟨by decide, 7, by decide, by decide, by decide, by decide⟩⟩⟩

/-- The staged head (with what follows its changeover in hyp_Cascades), and a slot that
waits behind an older one. -/
theorem hyp_ActivationMarkReached :
    let behind := withKey 4 (key .staged 10) keyed
    (Quiet keyed ∧ OneEach keyed ∧ (keyed.slot 6).state = .staged ∧
      (keyed.slot 6).mode = .atMark ∧ (keyed.slot 6).activationLatch = false ∧
      reached keyed.time.tick (keyed.slot 6).activationMark = true ∧
      keyed.stagedHead 1 = some 6 ∧ keyed.noticeWindow = none) ∧
    (Quiet paired ∧ OneEach paired ∧ paired.stagedHead 1 = some 6 ∧
      paired.noticeWindow = none) ∧
    (Quiet tailed ∧ OneEach tailed ∧ tailed.stagedHead 1 = some 6 ∧
      tailed.noticeWindow = none) ∧
    Quiet behind ∧ OneEach behind ∧ (behind.slot 6).state = .staged ∧
      reached behind.time.tick (behind.slot 6).activationMark = true ∧
      behind.stagedHead 1 ≠ some 6 := by
  and_intros <;> decide

/-- An activated slot that has left ACTIVE, with both its marks passed. -/
def leftActive (st : SlotState) : State :=
  atTick 500 (withKey 5 { key st 9 with activated := true, references := 1 } keyed)

theorem hyp_ExpiryMarkReached_left :
    let retiring := leftActive .retiring
    let draining := leftActive .draining
    (Quiet retiring ∧ retiring.noticeWindow = none ∧ (retiring.slot 5).state ≠ .active ∧
      (retiring.slot 5).activated = true ∧ (retiring.slot 5).expiryLatch = false ∧
      reached retiring.time.tick (retiring.slot 5).expiryMark = true) ∧
    (retiring.slot 5).renewalDueLatch = false ∧
    reached retiring.time.tick (retiring.slot 5).renewalDueMark = true ∧
    (draining.slot 5).state ≠ .active := by
  refine ⟨by and_intros <;> decide, by decide, by decide, by decide⟩

theorem hyp_LeftActive_oneEach : OneEach (leftActive .retiring) := by decide

/-- Once a slot has left ACTIVE its marks set their latches and nothing else; the marks
of a slot that was never ACTIVE have no value and set none. -/
theorem test_marks_outlive_active :
    let s := leftActive .retiring
    let staged := atTick 500 (withKey 5 (key .retiring 9) keyed)
    let k := (after (.expiryMarkReached 5) s).slot 5
    let r := (after (.renewalDueMarkReached 5) s).slot 5
    (k.expiryLatch = true ∧ k.state = .retiring ∧ k.renewalDueLatch = false) ∧
      (r.renewalDueLatch = true ∧ r.renewalDueRaised = false ∧ r.state = .retiring) ∧
      ((after (.expiryMarkReached 5) staged).slot 5).expiryLatch = false := by
  refine ⟨by and_intros <;> decide, by and_intros <;> decide, by decide⟩

theorem hyp_ExpiryMarkReached :
    let s := atTick 500 keyed
    let none' := atTick 500 (withKey 6 KeySlot.blank keyed)
    (Quiet s ∧ OneEach s ∧ (s.slot 5).state = .active ∧ (s.slot 5).expiryLatch = false ∧
      reached s.time.tick (s.slot 5).expiryMark = true ∧ s.noticeWindow = none) ∧
    Cascades s 1 [(1, 6)] ∧
    Quiet none' ∧ OneEach none' ∧ (none'.slot 5).state = .active ∧
      reached none'.time.tick (none'.slot 5).expiryMark = true ∧ none'.stagedHead 1 = none :=
  ⟨by and_intros <;> decide, ⟨6, by decide, .inl (by decide)⟩, by and_intros <;> decide⟩

theorem hyp_RenewalDueAndDrainReached :
    let s := atTick 400 keyed
    let alone := atTick 400 (withKey 6 KeySlot.blank keyed)
    (Quiet s ∧ OneEach s ∧ s.noticeWindow = none ∧ (s.slot 5).state = .active ∧
      (s.slot 5).renewalDueLatch = false ∧
      reached s.time.tick (s.slot 5).renewalDueMark = true ∧ s.slotsIn 1 .staged ≠ []) ∧
    (Quiet alone ∧ OneEach alone ∧ (alone.slot 5).renewalDueRaised = false ∧
      alone.slotsIn 1 .staged = []) ∧
    (s.slot 2).state = .draining ∧ (s.slot 2).drainLatch = false ∧
      reached s.time.tick (s.slot 2).drainDeadline = true :=
  ⟨by decide, by decide, by decide⟩

/-! ### Hypotheses met: the command unit -/

/-- Code 0, a code above 13, the three commands taken without arguments and those with. -/
theorem hyp_CommandIsTaken :
    Quiet base ∧ base.command.phase = .idle ∧ inProgress.command.phase ≠ .idle ∧
      (0 : Byte).toNat = 0 ∧ 13 < (14 : Byte).toNat ∧ (11 : Byte).toNat = 11 ∧
      (13 : Byte).toNat = 13 ∧ 1 ≤ (12 : Byte).toNat ∧ (12 : Byte).toNat ≤ 12 ∧
      (12 : Byte).toNat ≠ 11 ∧ base.noticeWindow = none := by decide

/-- A window of context 2 to define. -/
def defined (d : Direction) (role : Role) (count : Nat) : Window :=
  { base := 0x800000, count := count, direction := d, role := role, context := 2,
    parcels := List.replicate count ParcelRecord.blank }

/-- A data window of 64 parcels beside another, and a NOTICE window of one parcel
after whose definition nothing is at NO. -/
theorem hyp_WindowCommands_define :
    let beside := withWin .outbound .data ParcelRecord.blank base
    let s := reading 1 [3, 0x800000, 64, 1, 1, 2] beside
    let e := defined .outbound .data 64
    let n := reading 1 [3, 0x800000, 1, 1, 2, 2] base
    (Quiet s ∧ argument (line [3, 0x800000, 64, 1, 1, 2]) 1 = (3 : WindowIndex).val ∧
      argument (line [3, 0x800000, 64, 1, 1, 2]) 2 = e.base ∧
      argument (line [3, 0x800000, 64, 1, 1, 2]) 3 = e.count ∧
      argument (line [3, 0x800000, 64, 1, 1, 2]) 4 = e.direction.code ∧
      argument (line [3, 0x800000, 64, 1, 1, 2]) 5 = e.role.code ∧
      argument (line [3, 0x800000, 64, 1, 1, 2]) 6 = e.context.val ∧
      1 ≤ e.count ∧ e.count ≤ 64 ∧ e.base % 2048 = 0 ∧ e.base + 2048 * e.count ≤ 16773120 ∧
      ¬(e.role = .notice ∧ e.direction = .inbound) ∧
      ¬(e.role = .renewal ∧ e.direction = .outbound) ∧
      s.renewal.provisioned = true ∧ s.window 3 = none ∧
      (∀ v, ∀ f ∈ s.window v,
        (e.base + 2048 * e.count ≤ f.base ∨ f.base + 2048 * f.count ≤ e.base) ∧
          ¬(e.role = .notice ∧ f.role = .notice) ∧ ¬(e.role = .renewal ∧ f.role = .renewal)) ∧
      s.noticeWindow = none) ∧
    ArgumentsRead s 1 (line [3, 0x800000, 64, 1, 1, 2]) [] ∧
    ArgumentsRead n 1 (line [3, 0x800000, 1, 1, 2, 2]) [] ∧
    NoNotice { n with windows := n.windows.set 3 (some (defined .outbound .notice 1)) } [] := by
  refine ⟨?_, reads _ _ _ (by decide), reads _ _ _ (by decide), by decide⟩
  and_intros <;> decide

theorem hyp_WindowCommands_clear :
    let data := reading 2 [2] (withWin .outbound .data ParcelRecord.blank base)
    let notice := reading 2 [2]
      (withWin .outbound .notice ParcelRecord.blank (withQueue [record 5 .stale false .no] base))
    (Quiet data ∧ argument (line [2]) 1 = (2 : WindowIndex).val ∧
      data.window 2 = some (win .outbound .data ParcelRecord.blank) ∧
      (∀ q ∈ (win .outbound .data ParcelRecord.blank).parcels, q.state = .free) ∧
      data.noticeWindow = none) ∧
    (Quiet notice ∧ notice.window 2 = some (win .outbound .notice ParcelRecord.blank) ∧
      (∀ v, ∀ f ∈ notice.window v, f.role = .notice → v = 2) ∧
      ∀ r ∈ notice.fault.queue, r.hostTaken = false) ∧
    ArgumentsRead data 2 (line [2]) [] ∧ ArgumentsRead notice 2 (line [2]) [] := by
  refine ⟨by decide, by decide, reads _ _ _ (by decide), reads _ _ _ (by decide)⟩

/-- No fallback, and a fallback. -/
theorem hyp_SetContextReplacesSettings :
    let w := [1 + 256 * 255, 5, 6, 7, 8, 9, 10]
    let f := [1 + 256 * 3, 5, 6, 7, 8, 9, 10]
    (Quiet (reading 3 w keyed) ∧ OneEach (reading 3 w keyed) ∧
      argument (line w) 1 % 256 = (1 : Ctx).val ∧ argument (line w) 1 / 256 % 256 = 255 ∧
      (reading 3 w keyed).noticeWindow = none) ∧
    (argument (line f) 1 % 256 = (1 : Ctx).val ∧
      (some (3 : Ctx)).map Fin.val = some (argument (line f) 1 / 256 % 256)) ∧
    ArgumentsRead (reading 3 w keyed) 3 (line w) [] ∧
    ArgumentsRead (reading 3 f keyed) 3 (line f) [] :=
  ⟨by and_intros <;> decide, by decide, reads _ _ _ (by decide), reads _ _ _ (by decide)⟩

theorem hyp_SettingCommands :
    (Quiet (reading 4 [2] base) ∧ argument (line [2]) 1 = Grouping.all.code ∧
      Quiet (reading 5 [65536] base) ∧ Quiet (reading 6 [0] base) ∧ base.noticeWindow = none) ∧
    ArgumentsRead (reading 4 [2] base) 4 (line [2]) [] ∧
    ArgumentsRead (reading 5 [65536] base) 5 (line [65536]) [] ∧
    ArgumentsRead (reading 6 [0] base) 6 (line [0]) [] :=
  ⟨by decide, reads _ _ _ (by decide), reads _ _ _ (by decide), reads _ _ _ (by decide)⟩

/-- A parcel that holds slot 5. -/
def parcel (st : ParcelState) (owner : Option Owner) : ParcelRecord :=
  { ParcelRecord.blank with
    state := st, slot := some 5, owner := owner, sequence := some 7, length := some 65 }

/-- The state whose window holds that parcel. -/
def filled (role : Role) (st : ParcelState) (owner : Option Owner) : State :=
  withWin .outbound role (parcel st owner) keyed

/-- A job of parcel 0 of window 2. -/
def job (k : JobKind) : Job :=
  { window := 2, parcel := 0, kind := k, orderPoint := 3 }

/-- A running job with lines left. -/
def running (k : JobKind) (h : Option HeadLine) (left : Nat) : Running :=
  { job := job k, head := h, payload := [1, 2, 3], linesLeft := left }

/-- Another parcel's job runs, and jobs wait. -/
def behind (queue : List Job) (s : State) : State :=
  { s with tag := {
      queue := queue, deferred := [], waitingSeal := none,
      running := some { job := { job .check with parcel := 1 }, head := none, payload := [],
                        linesLeft := 2 } } }

theorem hyp_SealCommand :
    let s := reading 7 [2, 0, 2016] (filled .data .filling (some .controller))
    let busy := behind [] s
    let full := behind (List.replicate 16 (job .check)) s
    (Quiet s ∧ argument (line [2, 0, 2016]) 1 = (2 : WindowIndex).val ∧
      s.window 2 = some (win .outbound .data (parcel .filling (some .controller))) ∧
      argument (line [2, 0, 2016]) 2 < 2 ∧
      s.parcel 2 (argument (line [2, 0, 2016]) 2) = some (parcel .filling (some .controller)) ∧
      1 ≤ argument (line [2, 0, 2016]) 3 ∧ argument (line [2, 0, 2016]) 3 ≤ 2016 ∧
      s.tag = { queue := [], running := none, deferred := [], waitingSeal := none } ∧
      s.noticeWindow = none) ∧
    (Quiet busy ∧ busy.tag.running ≠ none ∧ busy.tag.queue.length < 16 ∧
      busy.tag.deferred = [] ∧ busy.tag.waitingSeal = none) ∧
    (Quiet full ∧ full.tag.queue.length = 16) ∧
    ArgumentsRead s 7 (line [2, 0, 2016]) [] :=
  ⟨by and_intros <;> decide, by decide, by decide, reads _ _ _ (by decide)⟩

/-- A sealed parcel, a deferred one, one whose job waits, one whose job runs with a
read outstanding, and a free one. -/
theorem hyp_ReleaseCommand :
    let s := fun (st : ParcelState) => reading 8 [2, 0] (filled .data st (some .controller))
    let deferred : State := { s .checking with tag := { (s .checking).tag with
        deferred := [(2, 0)] } }
    let queued := behind [job .check] (s .checking)
    let runs := withJob (running .sealData none 2) { s .sealing with path := {
        (s .sealing).path with internal := [request .sealRead (.read 32)] } }
    (Quiet (s .sealed) ∧ (s .sealed).window 2 =
        some (win .outbound .data (parcel .sealed (some .controller))) ∧
      argument (line [2, 0]) 1 = (2 : WindowIndex).val ∧ argument (line [2, 0]) 2 < 2 ∧
      (s .sealed).parcel 2 0 = some (parcel .sealed (some .controller)) ∧
      (s .sealed).noticeWindow = none) ∧
    (Quiet deferred ∧ deferred.parcel 2 0 = some (parcel .checking (some .controller)) ∧
      (parcel .checking (some .controller)).releasePending = false ∧
      (2, 0) ∈ deferred.tag.deferred) ∧
    (Quiet queued ∧ queued.tag.deferred = [] ∧ queued.tag.waitingSeal = none ∧
      queued.tag.running ≠ none ∧ ∃ j ∈ queued.tag.queue, j.window = 2 ∧ j.parcel = 0) ∧
    (Quiet runs ∧ (2, 0) ∉ runs.tag.deferred ∧
      (∀ j ∈ runs.tag.queue, ¬(j.window = 2 ∧ j.parcel = 0)) ∧
      (runs.tag.running.map fun run => (run.job.window, run.job.parcel)) = some (2, 0) ∧
      State.awaits { runs with path := { runs.path with flight := [] } } tagPurpose = true) ∧
    (Quiet (s .free) ∧ (s .free).parcel 2 0 = some (parcel .free (some .controller))) ∧
    ArgumentsRead (s .sealed) 8 (line [2, 0]) [] := by
  refine ⟨?_, ?_, ?_, ?_, ?_, reads _ _ _ (by decide)⟩ <;> and_intros <;> decide

/-- A running job with a result to come and none, and one whose parcel carries the
release-pending mark. -/
theorem hyp_ReleaseCommand_running :
    let marked : ParcelRecord := { parcel .sealing (some .controller) with releasePending := true }
    let s := withJob (running .sealData none 2) (granted .sealRead (.read 32) []
      (withWin .outbound .data marked keyed))
    let more : State := { s with path := { s.path with
      internal := [request .sealRead (.read 32)] } }
    let r := request .sealRead (.read 32)
    let idle := withJob (running .sealData none 2)
      (reading 8 [2, 0] (filled .data .sealing (some .controller)))
    (Quiet s ∧ Oldest s .sealRead r [] ∧
      JobRuns s (running .sealData none 2) (win .outbound .data marked) marked ∧
      marked.releasePending = true ∧ (s.landed r [] true).awaits tagPurpose = false ∧
      s.noticeWindow = none) ∧
    (Oldest more .sealRead r [] ∧ (more.landed r [] false).awaits tagPurpose = true) ∧
    (JobRuns idle (running .sealData none 2)
        (win .outbound .data (parcel .sealing (some .controller)))
        (parcel .sealing (some .controller)) ∧
      State.awaits { idle with path := { idle.path with flight := [] } } tagPurpose = false) ∧
    ArgumentsRead idle 8 (line [2, 0]) [] := by
  refine ⟨?_, ?_, ?_, reads _ _ _ (by decide)⟩ <;> and_intros <;> decide

theorem hyp_KeyCommands :
    let now := reading 9 [1] keyed
    let gone := reading 10 [1, 9] keyed
    let tail := reading 10 [1, 12] (withKey 7 (key .staged 12) keyed)
    (Quiet now ∧ OneEach now ∧ argument (line [1]) 1 = (1 : Ctx).val ∧
      now.stagedHead 1 = some 6 ∧ now.noticeWindow = none) ∧
    (Quiet gone ∧ OneEach gone ∧ 1 ≤ argument (line [1, 9]) 2 ∧
      argument (line [1, 9]) 2 ≤ 65535 ∧ gone.retirable 1 (argument (line [1, 9]) 2) = some 5 ∧
      (gone.slot 5).state ≠ .staged) ∧
    (tail.retirable 1 (argument (line [1, 12]) 2) = some 7 ∧ (tail.slot 7).state = .staged ∧
      tail.stagedHead 1 ≠ some 7) ∧
    ArgumentsRead now 9 (line [1]) [] ∧ ArgumentsRead gone 10 (line [1, 9]) [] := by
  refine ⟨?_, ?_, ?_, reads _ _ _ (by decide), reads _ _ _ (by decide)⟩ <;> and_intros <;> decide

/-- RETIRE of the staged head: with a tail whose trigger applies, with one whose does not,
with nothing behind it and renewal due, and with nothing behind it and none due. -/
theorem hyp_KeyCommands_head :
    let promotes := reading 10 [1, 11] tailed
    let waits := reading 10 [1, 11] (withKey 7 (key .staged 12) keyed)
    let due := reading 10 [1, 11] keyed
    let told := reading 10 [1, 11] (withKey 5 { key .active 9 with renewalDueRaised := true } keyed)
    (Quiet promotes ∧ OneEach promotes ∧ promotes.retirable 1 11 = some 6 ∧
      promotes.stagedHead 1 = some 6 ∧
      (∀ x, x ∈ promotes.slotsIn 1 .staged ↔ x = 6 ∨ x = 7) ∧ Triggers promotes 7 ∧
      promotes.noticeWindow = none) ∧
    Cascades { promotes with keys := { promotes.keys with
      slots := promotes.keys.slots.set (6 : SlotId) (promotes.slot 6).gone } } 1 [(1, 7)] ∧
    ((∀ x, x ∈ waits.slotsIn 1 .staged ↔ x = 6 ∨ x = 7) ∧ ¬Triggers waits 7 ∧
      waits.exhausted 1 = false) ∧
    (due.slotsIn 1 .staged = [6] ∧ due.activeSlot 1 = some 5 ∧
      (due.slot 5).renewalDueRaised = false ∧
      (due.slot 5).budget - (due.slot 5).usage ≤ (due.context 1).settings.reserveParcels) ∧
    (told.slotsIn 1 .staged = [6] ∧ told.activeSlot 1 = some 5 ∧
      (told.slot 5).renewalDueRaised = true) ∧
    ArgumentsRead promotes 10 (line [1, 11]) [] ∧ ArgumentsRead due 10 (line [1, 11]) [] := by
  refine ⟨?_, ⟨7, by decide, .inl (by decide)⟩, ?_, ?_, ?_, reads _ _ _ (by decide),
    reads _ _ _ (by decide)⟩ <;> and_intros <;> decide

theorem hyp_SnapshotIsTaken :
    let s := reading 12 [2, 2] (filled .data .filling (some .controller))
    (Quiet s ∧ argument (line [1]) 1 = 1 ∧ argument (line [2, 2]) 1 = 2 ∧
      argument (line [2, 2]) 2 = (2 : WindowIndex).val ∧
      s.window 2 = some (win .outbound .data (parcel .filling (some .controller))) ∧
      argument (line [3]) 1 = 3 ∧ s.noticeWindow = none) ∧
    ArgumentsRead s 12 (line [2, 2]) [] ∧ ArgumentsRead (reading 12 [1] base) 12 (line [1]) [] ∧
    ArgumentsRead (reading 12 [3] base) 12 (line [3]) [] :=
  ⟨by decide, reads _ _ _ (by decide), reads _ _ _ (by decide), reads _ _ _ (by decide)⟩

/-- A snapshot in progress with writes left. -/
def snapping (p : Purpose) (left : Nat) : State :=
  let s := granted p (.write [some 1]) [] base
  { s with command := { s.command with
      phase := .writingSnapshot,
      snapshot := some { header := List.replicate 32 1, entries := 16, writesLeft := left } } }

theorem hyp_CommandWritesComplete :
    let a := granted .argument (.read 32) [] base
    let w := granted .result (.write [some 1]) [] base
    (Quiet a ∧ Oldest a .argument (request .argument (.read 32)) [] ∧
      (request .argument (.read 32)).access.isWrite = false ∧ a.noticeWindow = none) ∧
    (Quiet w ∧ Oldest w .result (request .result (.write [some 1])) []) ∧
    (Quiet (snapping .snapshotEntry 2) ∧
      Oldest (snapping .snapshotEntry 2) .snapshotEntry
        (request .snapshotEntry (.write [some 1])) [] ∧
      Oldest (snapping .snapshotEntry 1) .snapshotEntry
        (request .snapshotEntry (.write [some 1])) [] ∧
      Oldest (snapping .snapshotHeader 0) .snapshotHeader
        (request .snapshotHeader (.write [some 1])) []) ∧
    (snapping .snapshotEntry 2).command.snapshot =
      some { header := List.replicate 32 1, entries := 16, writesLeft := 2 } := by decide

/-- For each command a state and words with which a check fails, at the edge of the
range the check sets. -/
theorem hyp_FailedChecksAnswer :
    let a := fun (l : List Nat) => argument (line l)
    let s := withWin .outbound .notice (parcel .sealed none) base
    Quiet (reading 1 [8] base) ∧ base.noticeWindow = none ∧
      ArgumentsRead (reading 1 [8] base) 1 (line [8]) [] ∧ 7 < a [8] 1 ∧
      (a [7, 0, 65] 1 ≤ 7 ∧ 64 < a [7, 0, 65] 3) ∧
      (1 ≤ a [7, 1, 1] 3 ∧ a [7, 1, 1] 2 % 2048 ≠ 0) ∧
      (a [7, 16773120, 1] 2 % 2048 = 0 ∧
        16773120 < a [7, 16773120, 1] 2 + 2048 * a [7, 16773120, 1] 3) ∧
      (a [7, 0, 1, 3, 1, 0] 4 ≠ 1 ∧ a [7, 0, 1, 3, 1, 0] 4 ≠ 2) ∧
      (a [7, 0, 1, 2, 2, 3] 6 ≤ 3 ∧ a [7, 0, 1, 2, 2, 3] 4 = 2 ∧ a [7, 0, 1, 2, 2, 3] 5 = 2) ∧
      (s.window 2).isSome = true ∧ s.window 3 = none ∧
      s.anyWindow (fun f => decide (0x400800 < f.base + 2048 * f.count ∧
        f.base < 0x400800 + 2048 * 1)) = true ∧
      s.anyWindow (fun f => decide (f.role = .notice)) = true ∧
      (win .outbound .notice (parcel .sealed none)).parcels.any
        (fun q => decide (q.state ≠ .free)) = true ∧
      3 < a [4] 1 % 256 ∧ (a [3 + 256 * 4] 1 % 256 ≤ 3 ∧ 3 < a [3 + 256 * 4] 1 / 256 % 256) ∧
      2 < a [3] 1 ∧ (win .outbound .notice (parcel .sealed none)).count ≤ a [2, 2] 2 ∧
      2016 < a [2, 0, 2017] 3 ∧ (parcel .sealed none).state ≠ .filling ∧
      (base.stagedHead 0 = none ∧ base.retirable 0 65535 = none) ∧ 65535 < a [0, 65536] 2 ∧
      a [0] 1 = 0 ∧ (a [2, 8] 1 = 2 ∧ 7 < a [2, 8] 2) := by
  refine ⟨by decide, by decide, reads _ _ _ (by decide), ?_⟩
  and_intros <;> decide

/-! ### Hypotheses met: the tag engine, imports and notices -/

theorem hyp_TagWordsAreReduced :
    (2147483646 ≤ 2147483646 ∧ 2147483647 ≤ 4294967293 ∧ 4294967294 ≤ 4294967295) ∧
      0xFFFFFFFF % 2147483647 = 1 % 2147483647 := by decide

/-- A granted write of the tag engine or the composer. -/
def oneByte : Access :=
  .write [some 1]

/-- A seal job's state: parcel 0 of window 2 is SEALING. -/
def sealingJob (role : Role) (k : JobKind) (left : Nat) (p : Purpose) (access : Access) : State :=
  withJob (running k none left) (granted p access [] (filled role .sealing (some .controller)))

/-- A notice of the composer in that state. -/
def notice (left : Nat) : Notice :=
  { parcel := 0, context := 1, ordinals := [4], writesLeft := left }

/-- The composer in a phase with that notice. -/
def composing (phase : ComposerPhase) (left : Nat) (s : State) : State :=
  let s := withQueue [record 4 .started false .inFlight] s
  { s with composer := { s.composer with phase := phase, notice := some (notice left) } }

/-- The engine free with no notice; a running seal behind which jobs wait and a parcel
is deferred, and a notice in progress; and a running check that goes on. -/
theorem hyp_PurgeEmptiesSlots :
    let first := fun (s : State) => s.tag.queue.filter fun j => !j.kind.seals
    let full := composing .writing 1 { filled .notice .sealing (some .composer) with tag :=
      { queue := job .sealData :: List.replicate 15 { job .check with parcel := 1 },
        running := some (running .sealNotice none 1), deferred := [(2, 1)], waitingSeal := none } }
    let goesOn := withJob { running .check none 0 with job := { job .check with parcel := 1 } }
      (filled .data .sealing (some .controller))
    (Quiet keyed ∧ keyed.command.phase = .idle ∧ NullSlotBlank keyed ∧
      keyed.noticeWindow = none ∧
      keyed.tag = { queue := [], running := none, deferred := [], waitingSeal := none }) ∧
    (Quiet full ∧ full.command.phase = .idle ∧ NullSlotBlank full ∧
      (first full).length = 15 ∧ full.composer.notice ≠ none ∧
      ∀ j ∈ (first full).head?, (full.parcel j.window j.parcel).isSome = true) ∧
    Quiet goesOn ∧ goesOn.command.phase = .idle ∧ NullSlotBlank goesOn ∧
      (goesOn.parcel 2 1).any (fun q => q.slot.isSome) = false ∧ goesOn.noticeWindow = none := by
  and_intros <;> decide

/-- After the purge of a full engine with a notice in progress no context can carry a
notice, so none starts. -/
theorem hyp_PurgeEmptiesSlots_noNotice :
    let s := composing .writing 1 (filled .notice .sealing (some .composer))
    NoNotice (State.noticeDropped { s with keys := { s.keys with
      slots := Vector.replicate 16 KeySlot.blank } })
      [{ kind := .keysPurged, context := none, window := none, parcel := none,
         generation := none, detailA := 3, detailB := 0 }] := by
  decide

/-- A read-back, the last read-back, the head-line write of a seal and of a notice. -/
theorem hyp_SealJobRuns :
    let q := parcel .sealing (some .controller)
    let readback := sealingJob .data .sealData 2 .sealRead (.read 32)
    let last := sealingJob .data .sealData 1 .sealRead (.read 32)
    let head := sealingJob .data .sealData 0 .headWrite oneByte
    let published := composing .sealing 0 (sealingJob .notice .sealNotice 0 .headWrite oneByte)
    (Quiet readback ∧ JobRuns readback (running .sealData none 2) (win .outbound .data q) q ∧
      q.releasePending = false ∧ q.slot = some 5 ∧ q.sequence = some 7 ∧ q.length = some 65 ∧
      (running .sealData none 2).job.kind = .sealData ∧
      Oldest readback .sealRead (request .sealRead (.read 32)) [] ∧
      2 ≤ (running .sealData none 2).linesLeft ∧ readback.noticeWindow = none) ∧
    (JobRuns last (running .sealData none 1) (win .outbound .data q) q ∧
      Oldest last .sealRead (request .sealRead (.read 32)) [] ∧
      (running .sealData none 1).linesLeft ≤ 1) ∧
    (JobRuns head (running .sealData none 0) (win .outbound .data q) q ∧
      Oldest head .headWrite (request .headWrite oneByte) []) ∧
    Quiet published ∧
      JobRuns published (running .sealNotice none 0) (win .outbound .notice q) q ∧
      Oldest published .headWrite (request .headWrite oneByte) [] ∧
      published.composer.notice = some (notice 0) ∧ published.noticeWindow = some 2 ∧
      (∀ x ∈ published.fault.queue, x.hostTaken = false) := by
  and_intros <;> decide

/-- The head-line write of a SEAL behind which a job waits, and behind which the queue is
full with a parcel deferred, or with a notice's seal waiting. -/
theorem hyp_SealJobRuns_next :
    let q := parcel .sealing (some .controller)
    let s := fun (n : Nat) (deferred : List (WindowIndex × Nat)) (late : Option WaitingSeal) =>
      ({ sealingJob .data .sealData 0 .headWrite oneByte with tag :=
          { queue := { job .check with parcel := 1 } :: List.replicate n (job .check),
            running := some (running .sealData none 0), deferred := deferred,
            waitingSeal := late } } : State)
    let late : WaitingSeal := { window := 2, parcel := 1, length := 32 }
    (Quiet (s 0 [] none) ∧ Oldest (s 0 [] none) .headWrite (request .headWrite oneByte) [] ∧
      (running .sealData none 0).job.kind = .sealData ∧
      (s 0 [] none).tag.queue = { job .check with parcel := 1 } :: [] ∧
      (s 0 [] none).window 2 = some (win .outbound .data q) ∧
      (s 0 [] none).parcel 2 0 = some q ∧ q.releasePending = false ∧
      (s 0 [] none).parcel 2 1 = some ParcelRecord.blank ∧ (s 0 [] none).noticeWindow = none) ∧
    ((s 15 [(2, 1)] none).tag.queue.length = 16 ∧ (s 15 [(2, 1)] none).tag.deferred = [(2, 1)] ∧
      Oldest (s 15 [(2, 1)] none) .headWrite (request .headWrite oneByte) []) ∧
    (s 15 [] (some late)).tag.queue.length = 16 ∧
      (s 15 [] (some late)).tag.waitingSeal = some late ∧
      Oldest (s 15 [] (some late)) .headWrite (request .headWrite oneByte) [] := by
  and_intros <;> decide

/-- A refusal, a lost event and a published notice, with a write free to be issued and
with one outstanding. -/
theorem hyp_CountersWriteCompletes_changes :
    let s := withQueue fullQueue marks
    let published := composing .sealing 0 (sealingJob .notice .sealNotice 0 .headWrite oneByte)
    let ready := fun (s : State) => Quiet s ∧ s.fault.countersArmed = true ∧
      s.path.unissued = [] ∧ s.internalCount < 16 ∧ s.fault.countersWriting = false
    let writing : State := { s with fault := { s.fault with countersWriting := true } }
    (ready s ∧ Quiet writing ∧ writing.fault.countersWriting = true) ∧
    (s.path.hold = false ∧ s.path.port = [] ∧ s.path.outstanding = [] ∧
      (read 33554432 1).wellFormed = true ∧
      Request.refusedWhole (read 33554432 1) = some .outOfRange ∧ s.noticeWindow = none ∧
      Request.pieceCount (read 33554432 1) = 1 ∧ (read 33554432 33).wellFormed = true ∧
      Request.refusedWhole (read 33554432 33) = some .outOfRange ∧
      Request.pieceCount (read 33554432 33) = 2) ∧
    (s.time.heartbeat.mark = { value := some 90, latch := false } ∧
      reached s.time.tick 90 = true ∧ 8 ≤ s.fault.queue.length) ∧
    ready published ∧
      Oldest published .headWrite (request .headWrite oneByte) [] ∧
      (∃ e q, JobRuns published (running .sealNotice none 0) e q ∧ q.releasePending = false) ∧
      (running .sealNotice none 0).job.kind = .sealNotice ∧
      published.composer.notice = some (notice 0) ∧ published.noticeWindow = some 2 ∧
      ∀ x ∈ published.fault.queue, x.hostTaken = false ∧ x.office ≠ .no := by
  refine ⟨by decide, by decide, by decide, by decide, by decide,
    ⟨win .outbound .notice (parcel .sealing (some .controller)),
      parcel .sealing (some .controller), by decide⟩, by decide, by decide, by decide, by decide⟩

/-- A soundly posted REFUSED_ACCESS record, linked to the no-window counter, that
leaves at its receipt. -/
def countedPost : State :=
  let s := withQueue [record 7 .refusedAccess false .notRequired] base
  State.setCounter { s with fault := { s.fault with posted := some 7, postSound := true } } 8
    { value := 3, firstReason := some .outOfRange, firstParcel := none, link := some 7 }

theorem hyp_CountersWriteCompletes_receipt :
    let s := countedPost
    let writing : State := { s with fault := { s.fault with countersWriting := true } }
    (Quiet s ∧ s.fault.countersArmed = true ∧ s.path.unissued = [] ∧ s.internalCount < 16 ∧
      s.fault.countersWriting = false) ∧
    s.takeReceipt.fault.countersWanted = true ∧ s.takeReceipt.noticeCalled = false ∧
    writing.takeReceipt.fault.countersWanted = true ∧
    writing.takeReceipt.noticeCalled = false := by
  refine ⟨by and_intros <;> decide, by decide, by decide, by decide, by decide⟩

/-- Two refused pieces: the counters write carries the value after the first, and the
image is stale after the second (R131, R140). -/
theorem test_counters_write_at_first_change :
    let t := after (.upstreamRequest (read 33554432 33)) base
    (t.requests.filter fun r => decide (r.purpose = .counters)).map InternalRequest.access =
        [wholeLine (countersLine 0 0 0 [0, 0, 0, 0, 0, 0, 0, 0, 1])] ∧
      (t.counter 8).value = 2 ∧ t.fault.countersStale = true ∧ t.fault.countersWriting = true := by
  refine ⟨by decide, by decide, by decide, by decide⟩

/-- The bytes of a head line a check reads. -/
def headLine (context kind generation sequence station length : Nat) : List Byte :=
  (headLineBytes context kind generation sequence station length 99).take 20

/-- A check job's state with its head line in memory. -/
def checkingJob (role : Role) (k : JobKind) (p : Purpose) (bytes : List Byte) : State :=
  withJob (running k none 0)
    (granted p (.read 32) bytes (withWin .inbound role { ParcelRecord.blank with state := .checking }
      keyed))

/-- The fields of the head line a granted read of the state returns. -/
def headRead (s : State) : HeadLine :=
  headLineOf (s.returned 0xFFF020 (.read 32))

/-- Lengths 0, 2,016 and 64 at the edges of the checks; a generation that no slot
holds and one that slot 5 holds. -/
theorem hyp_HeadLinesAreChecked :
    let q : ParcelRecord := { ParcelRecord.blank with state := .checking }
    let bad := checkingJob .data .check .checkHead (headLine 1 1 9 5 0 0)
    let unknown := checkingJob .data .check .checkHead (headLine 1 1 11 5 0 2016)
    let found := checkingJob .data .check .checkHead (headLine 1 1 9 5 0 2016)
    let badRenewal := checkingJob .renewal .checkRenewal .renewalHead (headLine 4 3 9 5 0 64)
    let renewal := checkingJob .renewal .checkRenewal .renewalHead (headLine 3 3 9 5 0 64)
    (Quiet bad ∧ JobRuns bad (running .check none 0) (win .inbound .data q) q ∧
      q.releasePending = false ∧ Oldest bad .checkHead (request .checkHead (.read 32)) [] ∧
      ¬(1 ≤ (headRead bad).length ∧ (headRead bad).length ≤ 2016) ∧ bad.noticeWindow = none) ∧
    ((headRead unknown).length = 2016 ∧ (headRead unknown).context = 1 ∧
      (headRead unknown).kind = 1 ∧ (headRead unknown).station = 0 ∧
      ∀ x, ¬Resolves unknown (headRead unknown).context (headRead unknown).generation x) ∧
    (Oldest found .checkHead (request .checkHead (.read 32)) [] ∧
      ∀ x, Resolves found (headRead found).context (headRead found).generation x ↔ x = 5) ∧
    (Quiet badRenewal ∧ Oldest badRenewal .renewalHead (request .renewalHead (.read 32)) [] ∧
      (headRead badRenewal).length = 64 ∧ 3 < (headRead badRenewal).context) ∧
    JobRuns renewal (running .checkRenewal none 0) (win .inbound .renewal q) q ∧
      (headRead renewal).length = 64 ∧ (headRead renewal).context = 3 ∧
      (headRead renewal).kind = 3 ∧ (headRead renewal).station = 0 := by
  and_intros <;> decide

/-- A parcel under check that holds slot i. -/
def held (i : SlotId) : ParcelRecord :=
  { ParcelRecord.blank with
    state := .checking, slot := some i, length := some 33, sequence := some 101 }

/-- A head line under generation 11 of context 1, with some sequence and tag. -/
def carried (n tag : Nat) : HeadLine :=
  { context := 1, kind := 1, generation := 11, sequence := n, station := 0, length := 33,
    tag := tag }

/-- The state of a check whose payload read is to return, slot 6 having admitted
95, 98 and 100 of a window that ends at 100. -/
def payloadJob (h : HeadLine) (left : Nat) : State :=
  withJob (running .check (some h) left) (granted .checkPayload (.read 32) [4, 5, 6]
    (withWin .inbound .data (held 6)
      (withKey 6 { key .staged 11 with
        mode := .onPeerUse, highMark := 100, admitted := [95, 98, 100] } keyed)))

/-- The tag of that check. -/
def payloadTag (n : Nat) : Nat :=
  let s := payloadJob (carried n 0) 1
  tagBy (s.slot 6).hashKey (s.slot 6).trafficKey 1 2 11 n
    ([1, 2, 3] ++ s.returned 0xFFF020 (.read 32)) 1 0 33

/-- The premises that do not turn on the tag, for a staged head of mode ON_PEER_USE. -/
theorem hyp_PayloadIsChecked :
    let h := carried 101 4294967295
    (Quiet (payloadJob h 2) ∧
      Oldest (payloadJob h 2) .checkPayload (request .checkPayload (.read 32)) [] ∧
      JobRuns (payloadJob h 2) (running .check (some h) 2) (win .inbound .data (held 6)) (held 6) ∧
      (held 6).releasePending = false ∧ (held 6).slot = some 6 ∧
      2 ≤ (running .check (some h) 2).linesLeft ∧ (payloadJob h 2).noticeWindow = none) ∧
    (((payloadJob h 1).slot 6).state = .staged ∧ ((payloadJob h 1).slot 6).mode = .onPeerUse ∧
      OneEach (payloadJob h 1) ∧ (payloadJob h 1).stagedHead 1 = some 6 ∧
      ((payloadJob h 1).slot 6).highMark = 100) ∧
    ((payloadJob h 1).slot 5).state ≠ .staged ∧
    (100 < 101 ∧ (1 ≤ 69 ∧ 100 - 31 ≤ 69 ∧ 69 ≤ 100 ∧ 69 ∉ [95, 98, 100]) ∧
      (98 ≤ 100 ∧ 98 ∈ [95, 98, 100]) ∧ (1 ≤ 68 ∧ 68 < 100 - 31 ∧ 68 ∉ [95, 98, 100])) := by
  and_intros <;> decide

theorem hyp_PayloadIsChecked_changes :
    Cascades (payloadJob (carried 101 4294967295) 1) 1 [(1, 6)] :=
  ⟨6, by decide, .inl (by decide)⟩

/-- A tag that matches, whatever the block transform, and one that cannot. -/
theorem hyp_PayloadIsChecked_tags (n : Nat) :
    payloadTag n = (carried n (payloadTag n)).tag ∧ payloadTag n ≠ (carried n 4294967295).tag :=
  ⟨rfl, Nat.ne_of_lt (Nat.lt_trans (Nat.mod_lt _ (by decide))
    (show 2147483647 < 4294967295 by decide))⟩

/-- The state of a renewal check whose payload read is to return. -/
def renewalJob (h : HeadLine) (left : Nat) : State :=
  withJob (running .checkRenewal (some h) left) (granted .renewalPayload (.read 32) [4, 5, 6]
    (withWin .inbound .renewal { ParcelRecord.blank with state := .checking } keyed))

theorem hyp_RenewalIsAdmitted :
    let h := carried 101 4294967295
    let s := renewalJob h 1
    let q : ParcelRecord := { ParcelRecord.blank with state := .checking }
    let importing : State := { s with renewal := { s.renewal with
        importing := some { data := [], readsLeft := 2 } } }
    (Quiet s ∧ JobRuns s (running .checkRenewal (some h) 1) (win .inbound .renewal q) q ∧
      Oldest s .renewalPayload (request .renewalPayload (.read 32)) [] ∧
      (running .checkRenewal (some h) 1).linesLeft ≤ 1 ∧ s.renewal.importing = none ∧
      s.renewal.importList = [] ∧ s.noticeWindow = none) ∧
    Oldest (renewalJob h 2) .renewalPayload (request .renewalPayload (.read 32)) [] ∧
    importing.renewal.importing ≠ none ∧
    (.renewalPayload, .renewalPayloadRead true) ∈
      ([(.checkHead, .checkHeadLineRead true), (.checkPayload, .checkPayloadRead true),
        (.renewalHead, .renewalHeadLineRead true),
        (.renewalPayload, .renewalPayloadRead true)] : List (Purpose × Instr)) := by
  and_intros <;> decide

/-- An entry of the import list. -/
def entry : ImportEntry :=
  { window := 2, parcel := 0, context := 1, generation := 12, sequence := 3 }

/-- The bytes of a renewal record. -/
def renewalBytes (context mode generation budget : Nat) (check : List Byte) : List Byte :=
  leBytes 1 context ++ leBytes 1 mode ++ leBytes 2 generation ++ leBytes 4 200 ++
    leBytes 4 budget ++ leBytes 4 0 ++ List.replicate 32 0 ++ check

/-- The state of an import whose second read is to return. -/
def importJob (left : Nat) (bytes : List Byte) : State :=
  let s := granted .importRead (.read 32) []
    (withWin .inbound .renewal { ParcelRecord.blank with state := .admitted } keyed)
  { s with renewal := { s.renewal with
      importList := [entry], importing := some { data := bytes, readsLeft := left } } }

/-- The premises of an import, and for each of the first six refusals the fact it rests on. -/
theorem hyp_RenewalIsImported :
    let q : ParcelRecord := { ParcelRecord.blank with state := .admitted }
    let s := importJob 1 (renewalBytes 1 2 12 5 [])
    (Quiet s ∧ Oldest s .importRead (request .importRead (.read 32)) [] ∧
      s.renewal.importing = some { data := renewalBytes 1 2 12 5 [], readsLeft := 1 } ∧
      s.renewal.importList = [entry] ∧
      s.window entry.window = some (win .inbound .renewal q) ∧
      s.parcel entry.window entry.parcel = some q ∧ q.slot = none ∧
      entry.context = (1 : Ctx).val ∧ s.noticeWindow = none) ∧
    2 ≤ ({ data := [], readsLeft := 2 } : ImportRun).readsLeft ∧
    (renewalRecordOf (renewalBytes 2 2 12 5 [])).context ≠ entry.context ∧
    3 < (renewalRecordOf (renewalBytes 1 4 12 5 [])).mode ∧
    (renewalRecordOf (renewalBytes 1 2 12 5 [])).generation ≤ 12 ∧
    (renewalRecordOf (renewalBytes 1 2 12 0 [])).budget = 0 ∧
    2 ≤ ((withKey 7 (key .staged 12) s).slotsIn 1 .staged).length ∧
    (modeOf? (renewalRecordOf (renewalBytes 1 2 12 5 [])).mode = some .onPeerUse ∧
      (s.slot 1).state = .empty ∧ (s.context 1).floor < 12 ∧ s.slotsIn 1 .staged ≠ [] ∧
      ∀ x ∈ s.slotsIn 1 .staged, (s.slot x).generation < 12) ∧
    modeOf? 0 = some .atOnce ∧ (withKey 6 KeySlot.blank s).slotsIn 1 .staged = [] ∧
      OneEach (withKey 6 KeySlot.blank s) ∧ OneEach s := by
  and_intros <;> decide

/-- A generation staged into an empty list, and one of mode AT_ONCE that has discarded
the head before it: the changeovers each brings about. -/
theorem hyp_RenewalIsImported_changes :
    let new : KeySlot := { KeySlot.blank with state := .staged, context := 1, generation := 12 }
    let alone := withKey 1 new (withKey 6 KeySlot.blank keyed)
    let discarded := withKey 1 new (withKey 6 { key .retiring 11 with references := 2 } paired)
    Cascades alone 1 [(1, 1)] ∧ Cascades discarded 1 [(1, 1), (0, 8)] :=
  ⟨⟨1, by decide, .inl (by decide)⟩, ⟨1, by decide, .inl (by decide)⟩⟩

/-- A check value that matches, whatever the block transform. -/
theorem hyp_RenewalIsImported_check (v : Block) :
    (renewalRecordOf (renewalBytes 1 2 12 5 (leBytes 4 (firstWord v)))).checkValue =
      firstWord v := by
  have h : firstWord v < 4294967296 := Nat.mod_lt _ (by decide)
  generalize firstWord v = n at *
  show leValue [BitVec.ofNat 8 n, BitVec.ofNat 8 (n / 256), BitVec.ofNat 8 (n / 256 / 256),
    BitVec.ofNat 8 (n / 256 / 256 / 256)] = n
  simp only [leValue, BitVec.toNat_ofNat]
  omega

/-- An image write with another behind it, and the last with the engine free,
running, and full. -/
theorem hyp_NoticeImagesAreWritten :
    let q := parcel .filling (some .composer)
    let s := fun (left : Nat) => composing .writing left
      (granted .noticeImage oneByte [] (filled .notice .filling (some .composer)))
    (Quiet (s 2) ∧ Oldest (s 2) .noticeImage (request .noticeImage oneByte) [] ∧
      (s 2).noticeWindow = some 2 ∧ (s 2).window 2 = some (win .outbound .notice q) ∧
      (s 2).composer.notice = some (notice 2) ∧ (s 2).parcel 2 (notice 2).parcel = some q ∧
      2 ≤ (notice 2).writesLeft ∧ (s 2).composer.phase ≠ .idle) ∧
    (Quiet (s 1) ∧ (notice 1).writesLeft ≤ 1 ∧
      (s 1).tag = { queue := [], running := none, deferred := [], waitingSeal := none }) ∧
    ((behind [] (s 1)).tag.queue.length < 16 ∧ (behind [] (s 1)).tag.running ≠ none ∧
      (behind [] (s 1)).tag.deferred = [] ∧ (behind [] (s 1)).tag.waitingSeal = none) ∧
    (behind (List.replicate 16 (job .check)) (s 1)).tag.queue.length = 16 := by
  and_intros <;> decide

/-! ### Commands on small states -/

theorem test_resets_go :
    goes .powerOn base = true ∧ (after .powerOn base).path.hold = true ∧
      (after .resetLineReleased (after (.resetLineAsserted []) base)).fault.queue =
        [startedRecord .resetLine] ∧
      (after .restartReset (after (.restart 5) base)).command.resultTicket = 5 := by decide

theorem test_boundary_scan : (after (.boundaryScanSelected []) base).mode = .scanHeld := by decide

theorem test_start_up :
    let s := after .downstreamGrant (after (.fuseProgramming (.storeId 7)) State.reset)
    let t := after (.startUpResultWriteDone false) (after .rootFuseStoreRead s)
    t.path.hold = false ∧ t.renewal.storeId = 7 ∧ t.renewal.provisioned = true ∧
      t.fault.posted = some 1 := by decide

theorem test_open_memory :
    let s := after (.upstreamRequest (write 0x1000 [some 7, none])) base
    let t := after (.passingPieceDone false) (after .downstreamGrant s)
    s.path.passing.length = 1 ∧ t.mem = [(0x1000, 7)] ∧
      t.responses = [{ request := write 0x1000 [some 7, none], ok := true, data := [] }] := by
  decide

theorem test_failed_read_returns_zeros :
    let s := after .downstreamGrant (after (.upstreamRequest (read 0x1000 3)) base)
    (after (.passingPieceDone true) s).responses =
      [{ request := read 0x1000 3, ok := false, data := [0, 0, 0] }] := by decide

theorem test_command_word :
    let s := after (.controlWindowWrite 0 [some 1, some 2, none, some 3]) base
    let t := after (.controlWindowWrite 0 [some 1, some 2, some 0, some 0]) base
    s.command.phase = .idle ∧ t.command.phase = .readingArguments ∧ t.command.ticket = 2 ∧
      t.requests.map InternalRequest.purpose = [.argument] := by decide

theorem test_heartbeat_watch :
    let s := after .heartbeatMarkReached marks
    s.time.heartbeat.silent = true ∧ s.fault.queue.map (fun r => r.event.kind) = [.controllerSilent] ∧
      (after .heartbeat s).time.heartbeat.silent = false := by decide

theorem test_link_watch : (after (.linkSilenceMarkReached 2) marks).link 2 =
    { period := 50, mark := { value := none, latch := false }, silent := true } := by decide

theorem test_composer_marks :
    (after .gatherMarkReached marks).composer.gather.latch = true ∧
      (after .retryMarkReached marks).composer.retry.latch = true := by decide

theorem test_posting :
    let s := after .postWriteIssue (after .receipt (posted (some 4) [record 4 .stale false .yes]))
    let t := after (.postWriteDone false) (after .downstreamGrant s)
    s.fault.queue = [] ∧ s.fault.posted = none ∧ s.fault.postFence = true ∧
      t.fault.postFence = false ∧ t.fault.postSound = true := by decide

theorem test_counters :
    (after (.countersWriteDone true) (granted .counters oneByte [] base)).fault.countersStale =
      true := by decide

theorem test_tick_wraps :
    (after .tick (atTick 4294967295 base)).time.tick = 0 ∧
      (after .tick (atTick 1 base)).time.tick = 2 := by decide +kernel

theorem test_activation_mark :
    let s := after (.activationMarkReached 6) keyed
    s.activeSlot 1 = some 6 ∧ s.drainingSlot 1 = some 5 ∧ (s.slot 2).state = .empty := by decide

theorem test_expiry_and_drain :
    let s := after (.expiryMarkReached 5) (atTick 500 (withKey 6 KeySlot.blank keyed))
    s.activeSlot 1 = none ∧ s.drainingSlot 1 = some 5 ∧ (s.context 1).holdLine = true ∧
      (after (.drainDeadlineReached 5) (atTick 9999 s)).drainingSlot 1 = none := by decide

theorem test_renewal_due :
    (after (.renewalDueMarkReached 5) (atTick 400 (withKey 6 KeySlot.blank keyed))).fault.queue.map
      (fun r => r.event.kind) = [.renewalDue] := by decide

theorem test_define_and_clear_window :
    let s := after .defineWindow (reading 1 [3, 0x800000, 2, 1, 1, 2] base)
    s.window 3 = some (defined .outbound .data 2) ∧ s.command.resultStatus = .done ∧
      (after .clearWindow (reading 2 [3] s)).window 3 = none := by decide

theorem test_settings :
    (after .setContext (reading 3 [0 + 256 * 255, 0, 1, 2, 9, 3, 4] base)).context 0 =
      { floor := 0, holdLine := true,
        settings := { drainPeriod := 1, reserveParcels := 1, reserveTicks := 2, holdLow := 9,
                      holdHigh := 9, linkSilence := 4, fallback := none } } ∧
      (after .setGrouping (reading 4 [1] base)).keys.grouping = .pairs ∧
      (after .setNotice (reading 5 [70000] base)).composer.gatherTime = 65535 ∧
      (after .setHeartbeat (reading 6 [50] base)).time.heartbeat.mark =
        { value := some 150, latch := false } := by decide

theorem test_seal_and_release :
    let s := after .sealParcel (reading 7 [2, 0, 65] (filled .data .filling (some .controller)))
    s.requests.map InternalRequest.address = [0x400020, 0x400040, 0x400060, 0xFFF020] ∧
      (after .release (reading 8 [2, 0] (filled .data .filling (some .controller)))).parcel 2 0 =
        some ParcelRecord.blank := by decide +kernel

theorem test_keys :
    (after .activateNow (reading 9 [1] keyed)).command.resultDetail = 11 ∧
      ((after .retire (reading 10 [1, 9] keyed)).slot 5).state = .empty ∧
      (after (.purge 5) keyed).command.resultDetail = 3 := by decide +kernel

theorem test_snapshot :
    (after .snapshot (reading 12 [2, 2] (filled .data .filling none))).requests.map
      InternalRequest.address = [0xFFF120] := by decide

theorem test_taken_and_failed :
    (after (.commandTaken 14 6) base).command.resultStatus = .unknownCommand ∧
      (after .argumentReadFailed (granted .argument (.read 32) [] base)).command.resultDetail = 255 ∧
      (after (.resultWriteDone false) (granted .result oneByte [] base)).command.phase = .idle ∧
      ((after (.snapshotWriteDone false) (snapping .snapshotEntry 1)).requests.map
        InternalRequest.address) = [0xFFF100] := by decide

theorem test_seal_job :
    ((after (.headLineWriteDone false) (sealingJob .data .sealData 0 .headWrite oneByte)).parcel 2 0).map
        ParcelRecord.state = some .sealed ∧
      ((after (.sealReadbackDone true) (sealingJob .data .sealData 2 .sealRead (.read 32))).parcel
        2 0).map ParcelRecord.state = some .filling := by decide +kernel

theorem test_check_job :
    ((after (.checkHeadLineRead false)
        (checkingJob .data .check .checkHead (headLine 1 1 9 5 0 33))).slot 5).references = 1 ∧
      ((after (.checkPayloadRead true) (payloadJob (carried 101 0) 1)).parcel 2 0).map
        ParcelRecord.state = some .rejected := by decide +kernel

theorem test_renewal_job :
    (after (.renewalHeadLineRead false)
        (checkingJob .renewal .checkRenewal .renewalHead (headLine 3 3 9 5 0 64))).requests.map
        InternalRequest.address = [0x400020, 0x400040] ∧
      (after (.renewalPayloadRead true) (renewalJob (carried 101 0) 1)).tag.running = none ∧
      ((after (.importReadDone false) (importJob 1 (renewalBytes 2 2 12 5 []))).fault.queue.map
        fun r => (r.event.kind, r.event.detailA)) = [(.renewalRefused, 1)] := by decide +kernel

theorem test_notice :
    let s := composing .writing 1
      (granted .noticeImage oneByte [] (filled .notice .filling (some .composer)))
    (after (.noticeImageWriteDone false) s).composer.phase = .sealing ∧
      (after (.noticeImageWriteDone true) s).composer.phase = .idle := by decide +kernel

end Sys2Proof.Tests
end

section
/-! PROOFS. The little-endian fields of a block, and the words of the parcel tag (chapter 2). -/

namespace Sys2Proof.Machine

/-! ### Little-endian runs of bytes and the blocks made of them -/

@[simp] theorem length_leBytes : ∀ n v : Nat, (leBytes n v).length = n
  | 0, _ => rfl
  | n + 1, v => by simp [leBytes, length_leBytes n]

theorem leValue_append :
    ∀ xs ys : List Byte, leValue (xs ++ ys) = leValue xs + 256 ^ xs.length * leValue ys
  | [], ys => by simp [leValue]
  | b :: xs, ys => by
    simp only [List.cons_append, leValue, leValue_append xs ys, List.length_cons, pow_succ]
    ring

theorem leValue_lt_pow_length : ∀ xs : List Byte, leValue xs < 256 ^ xs.length
  | [] => by simp [leValue]
  | b :: xs => by
    have hb : b.toNat < 256 := b.isLt
    have hxs := leValue_lt_pow_length xs
    simp only [leValue, List.length_cons, pow_succ]
    omega

/-- The low bytes of a number hold it modulo 256 to their count. -/
theorem leValue_leBytes : ∀ n v : Nat, leValue (leBytes n v) = v % 256 ^ n
  | 0, v => by simp [leBytes, leValue, Nat.mod_one]
  | n + 1, v => by
    simp [leBytes, leValue, leValue_leBytes n, pow_succ', Nat.mod_mul]

/-- A field of a block: the bits at its place are the number written there, as many as
the field holds. -/
theorem extractLsb'_blockOf_leBytes (before after : List Byte) (n v : Nat)
    (hlen : (before ++ (leBytes n v ++ after)).length ≤ 16) :
    (blockOf (before ++ (leBytes n v ++ after))).extractLsb' (8 * before.length) (8 * n) =
      BitVec.ofNat (8 * n) v := by
  have hbase (k : Nat) : 2 ^ (8 * k) = 256 ^ k := by rw [pow_mul]; rfl
  have hshift : leValue (before ++ (leBytes n v ++ after)) / 256 ^ before.length =
      v % 256 ^ n + 256 ^ n * leValue after := by
    rw [leValue_append, leValue_append, leValue_leBytes, length_leBytes,
      Nat.add_mul_div_left _ _ (by positivity),
      Nat.div_eq_of_lt (leValue_lt_pow_length before), Nat.zero_add]
  have hlt : leValue (before ++ (leBytes n v ++ after)) < 2 ^ 128 :=
    (leValue_lt_pow_length _).trans_le (Nat.pow_le_pow_right (n := 256) (by decide) hlen)
  apply BitVec.eq_of_toNat_eq
  rw [blockOf, List.take_of_length_le hlen, BitVec.extractLsb'_toNat, BitVec.toNat_ofNat,
    BitVec.toNat_ofNat, Nat.mod_eq_of_lt hlt, Nat.shiftRight_eq_div_pow, hbase, hbase, hshift,
    Nat.add_mul_mod_self_left, Nat.mod_mod]

/-- The sequence word of a counter block is the sequence as it is, not reduced (R27, R36). -/
theorem extractLsb'_counterBlock_sequence (context direction generation sequence line half : Nat) :
    (counterBlock context direction generation sequence line half).extractLsb' 32 32 =
      BitVec.ofNat 32 sequence := by
  have hfield := extractLsb'_blockOf_leBytes
    (leBytes 1 context ++ leBytes 1 direction ++ leBytes 2 generation)
    (leBytes 1 line ++ leBytes 1 half ++ leBytes 6 0) 4 sequence (by simp)
  simpa [counterBlock] using hfield

/-! ### The reduction of a word (R36) -/

theorem reduceWord_of_lt {x : Nat} (hx : x < tagPrime) : reduceWord x = x :=
  Nat.mod_eq_of_lt hx

/-- Taking k times P away leaves the reduced word, where what is left is below P. -/
theorem reduceWord_eq_sub_mul {x k : Nat} (hlow : k * tagPrime ≤ x)
    (hhigh : x - k * tagPrime < tagPrime) : reduceWord x = x - k * tagPrime := by
  calc
    reduceWord x = reduceWord (x - k * tagPrime + k * tagPrime) := by
      rw [Nat.sub_add_cancel hlow]
    _ = reduceWord (x - k * tagPrime) := Nat.add_mul_mod_self_right _ _ _
    _ = x - k * tagPrime := reduceWord_of_lt hhigh

/-! ### Horner's rule (R37) -/

theorem accumulate_append_singleton (h w : Nat) (ws : List Nat) :
    accumulate h (ws ++ [w]) = ((accumulate h ws + reduceWord w) * h) % tagPrime := by
  simp [accumulate]

/-- The accumulation sees its words only through their reductions. -/
theorem accumulate_eq_foldl_map_reduceWord (h : Nat) (ws : List Nat) :
    accumulate h ws = (ws.map reduceWord).foldl (fun a r => ((a + r) * h) % tagPrime) 0 := by
  rw [accumulate, List.foldl_map]

theorem accumulate_congr {h x y : Nat} (us vs : List Nat) (hxy : reduceWord x = reduceWord y) :
    accumulate h (us ++ x :: vs) = accumulate h (us ++ y :: vs) := by
  simp only [accumulate_eq_foldl_map_reduceWord, List.map_append, List.map_cons, hxy]

/-- Settles O54. R36's second and third case take P away once and twice; words that reduce
alike count alike because the accumulation sees only reductions; and the sequence is a
little-endian field of the counter block. -/
theorem tagWordsAreReduced : Obligations.TagWordsAreReduced := by
  refine ⟨fun x hx => ?kept, fun x hlow hhigh => ?once, fun x hlow hhigh => ?twice, fun _ => rfl,
    accumulate_append_singleton, fun _ _ _ => rfl,
    fun _ _ _ us vs hxy => accumulate_congr us vs hxy, extractLsb'_counterBlock_sequence⟩
  case kept => exact reduceWord_of_lt (by unfold tagPrime; omega)
  case once =>
    exact reduceWord_eq_sub_mul (k := 1) (by unfold tagPrime; omega) (by unfold tagPrime; omega)
  case twice =>
    exact reduceWord_eq_sub_mul (k := 2) (by unfold tagPrime; omega) (by unfold tagPrime; omega)

end Sys2Proof.Machine
end

section
/-! PROOFS. The arbiter of the downstream port (R52, R53). -/

namespace Sys2Proof.Machine

/-! ### Which internal heads may take the port (R52) -/

/-- A write piece placed before an order point is pending while it waits in the passing
stream or is granted and not completed (R52). -/
theorem writePending_iff {s : State} {orderPoint : Nat} :
    s.writePending orderPoint = true ↔
      (∃ p ∈ s.path.passing, p.access.isWrite = true ∧ p.serial < orderPoint) ∨
        ∃ p, .passing p ∈ s.path.flight ∧ p.access.isWrite = true ∧ p.serial < orderPoint := by
  simp only [State.writePending, Bool.or_eq_true, List.any_eq_true]
  refine or_congr (by simp) ⟨?granted, ?counted⟩
  case granted =>
    rintro ⟨p | _, hmem, hp⟩
    · exact ⟨p, hmem, by simpa using hp⟩
    · cases hp
  case counted =>
    rintro ⟨p, hmem, hp⟩
    exact ⟨.passing p, hmem, by simpa using hp⟩

theorem eligible_iff {s : State} {r : InternalRequest} :
    s.eligible r = true ↔ r.access.isWrite = true ∨ ¬s.writePending r.orderPoint = true := by
  simp [State.eligible]

/-- The internal stream has a head that the arbiter counts as waiting (R53). -/
def State.InternalWaits (s : State) : Prop :=
  ∃ r rest, s.path.internal = r :: rest ∧ s.eligible r = true

theorem internalWaits_cons {s : State} {r : InternalRequest} {rest : List InternalRequest}
    (hinternal : s.path.internal = r :: rest) : s.InternalWaits ↔ s.eligible r = true := by
  simp [State.InternalWaits, hinternal]

/-! ### The grant (R53) -/

theorem exec_downstreamGrant {s : State} (hmode : s.mode = .running ∨ s.mode = .restarting) :
    exec .downstreamGrant s = .next s.grant := by
  have hheld : s.mode.held = false := by
    rcases hmode with h | h <;> rw [h] <;> rfl
  change execDownstreamGrant s = .next s.grant
  simp [execDownstreamGrant, hheld]

theorem grant_eq_grantPassing {s : State} {p : Piece} {rest : List Piece}
    (hpassing : s.path.passing = p :: rest)
    (hturn : ¬s.InternalWaits ∨ s.path.turn = .passing) :
    s.grant = s.grantPassing p rest := by
  cases hinternal : s.path.internal with
  | nil => simp [State.grant, hpassing, hinternal]
  | cons r more =>
    rw [internalWaits_cons hinternal, Bool.not_eq_true] at hturn
    simp only [State.grant, hpassing, hinternal]
    exact if_pos (by simpa using hturn)

theorem grant_eq_grantInternal {s : State} {r : InternalRequest} {rest : List InternalRequest}
    (hinternal : s.path.internal = r :: rest) (hwaits : s.InternalWaits)
    (hturn : s.path.passing = [] ∨ s.path.turn = .internal) :
    s.grant = s.grantInternal r rest := by
  have heligible := (internalWaits_cons hinternal).1 hwaits
  cases hpassing : s.path.passing with
  | nil => simp [State.grant, hpassing, hinternal, heligible]
  | cons p more =>
    have hinternalTurn : s.path.turn = .internal := by simpa [hpassing] using hturn
    simp [State.grant, hpassing, hinternal, heligible, hinternalTurn]

/-- Settles O29. A head waits in the statement's sense exactly when the arbiter counts it,
and the two grants are the two sides of the arbiter's choice. -/
theorem arbiterGrants : Obligations.ArbiterGrants := by
  refine ⟨rfl, fun s hmode => ?_⟩
  simp only [← writePending_iff, ← eligible_iff, exec_downstreamGrant hmode]
  refine ⟨fun p rest hpassing hturn => ?passing, fun r rest hinternal hwaits hturn => ?internal⟩
  case passing => exact congrArg _ (grant_eq_grantPassing hpassing hturn)
  case internal => exact congrArg _ (grant_eq_grantInternal hinternal hwaits hturn)

end Sys2Proof.Machine
end

section
/-! PROOFS. The pieces of the control window (R168 to R170). -/

namespace Sys2Proof.Machine

/-! ### The bytes a write piece enables (R169) -/

/-- A write piece that starts at an offset has an enabled byte at offset n. -/
def EnabledByte (offset : Nat) (bytes : List (Option Byte)) (n : Nat) : Prop :=
  offset ≤ n ∧ ∃ v, bytes[n - offset]? = some (some v)

theorem enabledAt_eq_some_iff {offset n : Nat} {bytes : List (Option Byte)} {v : Byte} :
    enabledAt offset bytes n = some v ↔ offset ≤ n ∧ bytes[n - offset]? = some (some v) := by
  rcases Nat.lt_or_ge n offset with h | h
  · simp [enabledAt, h]
  · simp [enabledAt, h, Nat.not_lt.2 h, List.getD_eq_getElem?_getD, Option.getD_eq_iff]

theorem enables_iff {test : Nat → Bool} {offset : Nat} {bytes : List (Option Byte)} :
    enables test offset bytes = true ↔ ∃ n, EnabledByte offset bytes n ∧ test n = true := by
  simp only [enables, List.any_eq_true, Bool.and_eq_true, Prod.exists]
  constructor
  · rintro ⟨b, k, hmem, hsome, htest⟩
    obtain ⟨v, rfl⟩ := Option.isSome_iff_exists.1 hsome
    have hget : bytes[k]? = some (some v) := List.mk_mem_zipIdx_iff_getElem?.1 hmem
    exact ⟨offset + k, ⟨Nat.le_add_right _ _, v, by rwa [Nat.add_sub_cancel_left]⟩, htest⟩
  · rintro ⟨n, ⟨hle, v, hget⟩, htest⟩
    exact ⟨some v, n - offset, List.mk_mem_zipIdx_iff_getElem?.2 hget, rfl,
      by rwa [Nat.add_sub_cancel' hle]⟩

/-- A list of offsets that a test decides: the test is met where an enabled byte is listed. -/
theorem exists_enabledByte_iff {area : Nat → Prop} {test : Nat → Bool} {offset : Nat}
    {bytes : List (Option Byte)} (htest : ∀ {n}, test n = true ↔ area n) :
    (∃ n, EnabledByte offset bytes n ∧ area n) ↔ enables test offset bytes = true := by
  simp only [enables_iff, htest]

/-! ### The command word (R170) -/

/-- The whole command word is enabled: the piece starts at it and its first four bytes
are these. -/
def WritesCommandWord (offset : Nat) (bytes : List (Option Byte)) (a b c d : Byte) : Prop :=
  offset = 0 ∧ bytes.take 4 = [some a, some b, some c, some d]

theorem writesCommandWord_iff {offset : Nat} {bytes : List (Option Byte)} {a b c d : Byte} :
    WritesCommandWord offset bytes a b c d ↔
      enabledAt offset bytes 0 = some a ∧ enabledAt offset bytes 1 = some b ∧
        enabledAt offset bytes 2 = some c ∧ enabledAt offset bytes 3 = some d := by
  simp only [enabledAt_eq_some_iff]
  constructor
  · rintro ⟨rfl, htake⟩
    obtain ⟨rest, rfl⟩ : ∃ rest, bytes = some a :: some b :: some c :: some d :: rest :=
      ⟨bytes.drop 4, by rw [← List.take_append_drop 4 bytes, htake]; simp⟩
    simp
  · rintro ⟨⟨hle, ha⟩, ⟨-, hb⟩, ⟨-, hc⟩, -, hd⟩
    obtain rfl := Nat.le_zero.1 hle
    exact ⟨rfl, by simp [List.take_add_one, ha, hb, hc, hd]⟩

theorem commandWordOf_of_writes {offset : Nat} {bytes : List (Option Byte)} {a b c d : Byte}
    (h : WritesCommandWord offset bytes a b c d) :
    commandWordOf offset bytes =
      some (a.toNat, b.toNat + 256 * c.toNat + 65536 * d.toNat) := by
  obtain ⟨ha, hb, hc, hd⟩ := writesCommandWord_iff.1 h
  simp only [commandWordOf, ha, hb, hc, hd, leValue, Option.some.injEq, Prod.mk.injEq, true_and]
  ring

theorem commandWordOf_eq_none {offset : Nat} {bytes : List (Option Byte)}
    (h : ¬∃ a b c d, WritesCommandWord offset bytes a b c d) :
    commandWordOf offset bytes = none := by
  unfold commandWordOf
  split
  · next a b c d ha hb hc hd => exact absurd ⟨a, b, c, d, writesCommandWord_iff.2 ⟨ha, hb, hc, hd⟩⟩ h
  · rfl

/-! ### What an accepted write piece causes (R169, R170) -/

@[simp] theorem place_mode (s : State) (address : Nat) (access : Access) (stream : List Byte) :
    (s.place address access stream).1.mode = s.mode := by
  unfold State.place
  split <;> rfl

theorem place_write_part (s : State) (address : Nat) (bytes : List (Option Byte))
    (stream : List Byte) :
    (s.place address (.write bytes) stream).2 =
      if bytes.all Option.isNone then .served [] else .waiting := by
  unfold State.place
  rw [apply_ite Prod.snd]
  rfl

section Effects

variable {s : State} {offset : Nat} {bytes : List (Option Byte)}

theorem controlEffects_command {a b c d : Byte}
    (hword : WritesCommandWord offset bytes a b c d)
    (hbeat : ¬enables inHeartbeatWord offset bytes = true) :
    s.controlEffects offset bytes =
      s.takeCommand a.toNat (b.toNat + 256 * c.toNat + 65536 * d.toNat) := by
  simp [State.controlEffects, commandWordOf_of_writes hword, hbeat]

theorem controlEffects_heartbeat (hmode : s.mode = .running)
    (hword : ¬∃ a b c d, WritesCommandWord offset bytes a b c d)
    (hbeat : enables inHeartbeatWord offset bytes = true) :
    s.controlEffects offset bytes = s.takeHeartbeat := by
  simp [State.controlEffects, commandWordOf_eq_none hword, hbeat, hmode]

theorem controlEffects_none
    (hword : ¬∃ a b c d, WritesCommandWord offset bytes a b c d)
    (hbeat : ¬enables inHeartbeatWord offset bytes = true) :
    s.controlEffects offset bytes = s := by
  simp [State.controlEffects, commandWordOf_eq_none hword, hbeat]

/-! ### The three tests, in their order (R169) -/

theorem controlRefusal_of_owned (howned : enables inPartOwnedArea offset bytes = true) :
    s.controlRefusal offset bytes = some .readOnlyArea := by
  simp [State.controlRefusal, howned]

theorem controlRefusal_of_busy (howned : ¬enables inPartOwnedArea offset bytes = true)
    (hcommand : enables inCommandArea offset bytes = true) (hphase : s.command.phase ≠ .idle) :
    s.controlRefusal offset bytes = some .commandBusy := by
  simp [State.controlRefusal, howned, hcommand, hphase]

theorem controlRefusal_eq_none (howned : ¬enables inPartOwnedArea offset bytes = true)
    (hbusy : ¬(enables inCommandArea offset bytes = true ∧ s.command.phase ≠ .idle)) :
    s.controlRefusal offset bytes = none := by
  rw [State.controlRefusal, if_neg howned, if_neg hbusy]

theorem takeControlPiece_refused {reason : RefusalReason}
    (h : s.controlRefusal offset bytes = some reason) :
    s.takeControlPiece .plain { address := controlBase + offset, access := .write bytes } =
      (s.reportRefusal noWindowCounter reason none, .notServed bytes.length) := by
  simp only [State.takeControlPiece, Nat.add_sub_cancel_left, h]
  rfl

theorem takeControlPiece_accepted (h : s.controlRefusal offset bytes = none) :
    s.takeControlPiece .plain { address := controlBase + offset, access := .write bytes } =
      ((s.place (controlBase + offset) (.write bytes) []).1.controlEffects offset bytes,
        (s.place (controlBase + offset) (.write bytes) []).2) := by
  simp only [State.takeControlPiece, Nat.add_sub_cancel_left, h]

end Effects

/-! ### The areas and words, as the rule lists them (R169, R183) -/

theorem inPartOwnedArea_iff {n : Nat} : inPartOwnedArea n = true ↔
    (0x20 ≤ n ∧ n < 0x40) ∨ (0x60 ≤ n ∧ n < 0x80) ∨ (0x80 ≤ n ∧ n < 0xA0) ∨ 0x100 ≤ n := by
  simp only [inPartOwnedArea, Bool.or_eq_true, decide_eq_true_eq]
  omega

theorem inCommandArea_iff {n : Nat} : inCommandArea n = true ↔ n < 0x20 := by
  simp [inCommandArea]

theorem inHeartbeatWord_iff {n : Nat} : inHeartbeatWord n = true ↔ 0x40 ≤ n ∧ n < 0x44 := by
  simp [inHeartbeatWord]

/-- Settles O26. The statement's lists of enabled bytes are the model's three tests, so each
clause is one branch of the decision; an accepted piece is placed and its effects follow from
the heartbeat word and the command word. -/
theorem controlPieceDecisions : Obligations.ControlPieceDecisions := by
  refine ⟨fun s ⟨address, access⟩ n => ⟨rfl, ?read⟩, fun s offset bytes _ hmode => ?write⟩
  case read =>
    rintro rfl
    rfl
  case write =>
    intro c enabled owned busy beats forwarded
    have howned : owned ↔ enables inPartOwnedArea offset bytes = true :=
      exists_enabledByte_iff inPartOwnedArea_iff
    have hbusy : busy ↔ enables inCommandArea offset bytes = true ∧ s.command.phase ≠ .idle :=
      and_congr_left' (exists_enabledByte_iff inCommandArea_iff)
    have hbeats : beats ↔ enables inHeartbeatWord offset bytes = true :=
      exists_enabledByte_iff inHeartbeatWord_iff
    have hforwarded : forwarded.mode = .running := (place_mode s _ _ _).trans hmode
    rw [howned, hbusy, hbeats]
    refine ⟨fun h => takeControlPiece_refused (controlRefusal_of_owned h),
      fun h hb => takeControlPiece_refused (controlRefusal_of_busy h hb.1 hb.2),
      fun h hb => ?accepted⟩
    have haccepted : s.takeControlPiece .plain c =
        (forwarded.controlEffects offset bytes, (s.place c.address c.access []).2) :=
      takeControlPiece_accepted (controlRefusal_eq_none h hb)
    rw [haccepted]
    exact ⟨place_write_part s _ bytes [],
      fun _ _ _ _ hoffset htake => controlEffects_command ⟨hoffset, htake⟩,
      fun hword => ⟨controlEffects_heartbeat hforwarded hword, controlEffects_none hword⟩⟩

end Sys2Proof.Machine
end

section
/-! PROOFS. What every step keeps: the invariants, through the changes a command is made of. -/

namespace Sys2Proof.Machine

/-! ### A step is the front command, or idles -/

theorem step_cons {s : State} {c : Instr} {rest : List Instr} (h : s.pending = c :: rest) :
    step s = exec c { s with pending := rest } := by
  simp only [step, h]

theorem step_nil {s : State} (h : s.pending = []) : step s = .next s := by
  simp only [step, h]

/-- Settles O1. -/
theorem stepRunsFrontCommand : Obligations.StepRunsFrontCommand :=
  ⟨fun _ _ _ h => step_cons h, fun _ h => step_nil h⟩

/-- A step that answers next idles, or is its front command on the queue's rest. -/
theorem step_next {s t : State} (h : step s = .next t) :
    t = s ∨ ∃ c rest, s.pending = c :: rest ∧ exec c { s with pending := rest } = .next t := by
  cases hp : s.pending with
  | nil =>
    rw [step_nil hp] at h
    injection h with h
    exact .inl h.symm
  | cons c rest => exact .inr ⟨c, rest, rfl, step_cons hp ▸ h⟩

/-- What does not read the queue, and what every change keeps, every step keeps. -/
theorem step_keeps {P : State → Prop} (queue : ∀ s l, P s → P { s with pending := l })
    (move : ∀ F s t, P s → Move F s t → P t) (s t : State) (hs : P s) (h : step s = .next t) :
    P t := by
  rcases step_next h with rfl | ⟨c, rest, _, hc⟩
  · exact hs
  · exact (exec_moves hc).keeps (move _) (queue s rest hs)

/-! ### What a completed access and a reset leave -/

@[simp] theorem complete_fault (s : State) (a : Nat) (x : Access) (e : Bool) :
    (s.complete a x e).fault = s.fault := by rw [complete_eq]
@[simp] theorem complete_keys (s : State) (a : Nat) (x : Access) (e : Bool) :
    (s.complete a x e).keys = s.keys := by rw [complete_eq]
@[simp] theorem complete_tag (s : State) (a : Nat) (x : Access) (e : Bool) :
    (s.complete a x e).tag = s.tag := by rw [complete_eq]
@[simp] theorem complete_path (s : State) (a : Nat) (x : Access) (e : Bool) :
    (s.complete a x e).path = s.path := by rw [complete_eq]
@[simp] theorem complete_windows (s : State) (a : Nat) (x : Access) (e : Bool) :
    (s.complete a x e).windows = s.windows := by rw [complete_eq]
@[simp] theorem complete_transit (s : State) (a : Nat) (x : Access) (e : Bool) :
    (s.complete a x e).transit = s.transit := by rw [complete_eq]
@[simp] theorem complete_pending (s : State) (a : Nat) (x : Access) (e : Bool) :
    (s.complete a x e).pending = s.pending := by rw [complete_eq]
/-! ### The invariants read the parts of the state they are about -/

theorem attnFollows_iff (s : State) : AttnFollows s ↔ s.fault.attn = attnLevel s.fault.queue := by
  rw [Bool.eq_iff_iff]
  simp [AttnFollows, attnLevel]

theorem attnFollows_congr {s t : State} (h : t.fault = s.fault) : AttnFollows t ↔ AttnFollows s := by
  rw [AttnFollows, AttnFollows, h]

theorem slot_congr {s t : State} (h : t.keys = s.keys) (i : SlotId) : t.slot i = s.slot i := by
  rw [State.slot, State.slot, h]

theorem nullSlotBlank_congr {s t : State} (h : t.keys = s.keys) :
    NullSlotBlank t ↔ NullSlotBlank s := by
  rw [NullSlotBlank, NullSlotBlank, slot_congr h]

theorem oneEach_congr {s t : State} (h : t.keys = s.keys) : OneEach t ↔ OneEach s := by
  simp only [OneEach, slot_congr h]

theorem window_congr {s t : State} (h : t.windows = s.windows) (w : WindowIndex) :
    t.window w = s.window w := by
  rw [State.window, State.window, h]

theorem windowsLaidOut_congr {s t : State} (h : t.windows = s.windows) :
    WindowsLaidOut t ↔ WindowsLaidOut s := by
  simp only [WindowsLaidOut, window_congr h]

theorem withinBounds_iff (s : State) : WithinBounds s ↔
    s.fault.queue.length ≤ 8 ∧ s.tag.queue.length ≤ 16 ∧ internalOf s.path ≤ 16 ∧
      passingOf s.path ≤ 32 :=
  Iff.rfl

theorem slot_startUp (s : State) (cause : Cause) (i : SlotId) :
    (s.startUp cause).slot i = KeySlot.blank :=
  Vector.getElem_replicate _

theorem window_startUp (s : State) (cause : Cause) (w : WindowIndex) :
    (s.startUp cause).window w = none :=
  Vector.getElem_replicate _

theorem oneEach_of_blank {s : State} (h : ∀ i, s.slot i = KeySlot.blank) : OneEach s := by
  intro i j _ _ _ _ hs
  rw [h i] at hs
  exact absurd hs (by decide)

theorem windowsLaidOut_of_none {s : State} (h : ∀ w, s.window w = none) : WindowsLaidOut s := by
  intro w e he
  rw [h w] at he
  cases he

/-! ### Small changes keep the invariants -/

theorem calm_attn {s t : State} (hs : AttnFollows s) (h : Calm s t) : AttnFollows t := by
  cases h with
  | fault f _ level => exact (attnFollows_iff _).2 (level ((attnFollows_iff s).1 hs))
  | slot i f _ => exact (attnFollows_congr (updateSlot_fault s i f)).2 hs
  | _ => exact hs

theorem calm_nullSlot {s t : State} (hs : NullSlotBlank s) (h : Calm s t) : NullSlotBlank t := by
  cases h with
  | slot i f _ => exact (updateSlot_slots s i f).2.trans hs
  | slots ks null _ => exact Eq.trans null hs
  | _ => exact hs

theorem calm_oneEach {s t : State} (hs : OneEach s) (h : Calm s t) : OneEach t := by
  cases h with
  | slot i f service => exact oneEach_update hs service
  | slots ks _ service => exact service hs
  | _ => exact hs

theorem calm_bounds {s t : State} (hs : WithinBounds s) (h : Calm s t) : WithinBounds t := by
  obtain ⟨hq, ht, hi, hp⟩ := (withinBounds_iff s).1 hs
  cases h with
  | fault f bound _ => exact ⟨by dsimp only; omega, ht, hi, hp⟩
  | tag t bound => exact ⟨hq, by dsimp only; omega, hi, hp⟩
  | path p passing inner =>
    exact (withinBounds_iff _).2 ⟨hq, ht, by dsimp only; omega, by dsimp only; omega⟩
  | slot i f _ =>
    rw [withinBounds_iff, updateSlot_fault, updateSlot_tag, updateSlot_path]
    exact ⟨hq, ht, hi, hp⟩
  | _ => exact ⟨hq, ht, hi, hp⟩

theorem calm_windows {s t : State} (hs : WindowsLaidOut s) (h : Calm s t) : WindowsLaidOut t := by
  cases h with
  | window w e laid => exact laid hs
  | slot i f _ => exact (windowsLaidOut_congr (updateSlot_windows s i f)).2 hs
  | _ => exact hs

/-! ### Every change keeps the invariants -/

theorem move_memory {F : List Flight} {s t : State} (hs : MemoryCanonical s) (h : Move F s t) :
    MemoryCanonical t := by
  cases h with
  | calm h => rw [MemoryCanonical, calm_mem h]; exact hs
  | complete f e _ => exact complete_wf s _ _ e hs
  | _ => exact hs

theorem move_attn {F : List Flight} {s t : State} (hs : AttnFollows s) (h : Move F s t) :
    AttnFollows t := by
  cases h with
  | calm h => exact calm_attn hs h
  | complete f e _ => exact (attnFollows_congr (complete_fault s _ _ e)).2 hs
  | startUp cause => exact (attnFollows_iff _).2 rfl
  | _ => exact hs

theorem move_nullSlot {F : List Flight} {s t : State} (hs : NullSlotBlank s) (h : Move F s t) :
    NullSlotBlank t := by
  cases h with
  | calm h => exact calm_nullSlot hs h
  | complete f e _ => exact (nullSlotBlank_congr (complete_keys s _ _ e)).2 hs
  | startUp cause => exact slot_startUp s cause 0
  | _ => exact hs

theorem move_oneEach {F : List Flight} {s t : State} (hs : OneEach s) (h : Move F s t) :
    OneEach t := by
  cases h with
  | calm h => exact calm_oneEach hs h
  | complete f e _ => exact (oneEach_congr (complete_keys s _ _ e)).2 hs
  | startUp cause => exact oneEach_of_blank (slot_startUp s cause)
  | _ => exact hs

theorem move_bounds {F : List Flight} {s t : State} (hs : WithinBounds s) (h : Move F s t) :
    WithinBounds t := by
  cases h with
  | calm h => exact calm_bounds hs h
  | place p n room =>
    obtain ⟨hq, ht, hi, _⟩ := (withinBounds_iff s).1 hs
    refine (withinBounds_iff _).2 ⟨hq, ht, hi, ?_⟩
    simp only [passingOf, List.length_append, List.length_singleton] at room ⊢
    omega
  | complete f e _ =>
    rw [withinBounds_iff, complete_fault, complete_tag, complete_path]
    exact (withinBounds_iff s).1 hs
  | startUp cause =>
    exact ⟨(by decide : 1 ≤ 8), (by decide : 0 ≤ 16), (by decide : 1 ≤ 16), (by decide : 0 ≤ 32)⟩
  | _ => exact hs

theorem move_windows {F : List Flight} {s t : State} (hs : WindowsLaidOut s) (h : Move F s t) :
    WindowsLaidOut t := by
  cases h with
  | calm h => exact calm_windows hs h
  | complete f e _ => exact (windowsLaidOut_congr (complete_windows s _ _ e)).2 hs
  | startUp cause => exact windowsLaidOut_of_none (window_startUp s cause)
  | _ => exact hs

/-! ### The invariants of every step -/

/-- Settles O3. A completed write puts canonical bytes; nothing else writes memory. -/
theorem stepKeepsMemoryCanonical : Obligations.StepKeepsMemoryCanonical :=
  step_keeps (fun _ _ h => h) fun _ _ _ => move_memory

/-- Settles O4. Every change of the fault unit keeps ATTN at the level its queue gives. -/
theorem stepKeepsAttn : Obligations.StepKeepsAttn :=
  step_keeps (fun _ _ h => h) fun _ _ _ => move_attn

/-- Settles O5. No change of a slot reaches the null slot, and a reset leaves it blank. -/
theorem stepKeepsNullSlot : Obligations.StepKeepsNullSlot :=
  step_keeps (fun _ _ h => h) fun _ _ _ => move_nullSlot

/-- Settles O6. A slot enters service only where its context has none in that state. -/
theorem stepKeepsOneOfEach : Obligations.StepKeepsOneOfEach :=
  step_keeps (fun _ _ h => h) fun _ _ _ => move_oneEach

/-- Settles O7. -/
theorem stepKeepsBounds : Obligations.StepKeepsBounds :=
  ⟨step_keeps (fun _ _ h => h) fun _ _ _ => move_bounds,
    step_keeps (fun _ _ h => h) fun _ _ _ => move_windows⟩

/-- Settles O9. -/
theorem resetMeetsInvariants : Obligations.ResetMeetsInvariants := by
  have hslot : ∀ i, State.reset.slot i = KeySlot.blank := fun i => Vector.getElem_replicate _
  have hwindow : ∀ w, State.reset.window w = none := fun w => Vector.getElem_replicate _
  exact ⟨rfl, (attnFollows_iff _).2 rfl, hslot 0, oneEach_of_blank hslot,
    ⟨by decide, by decide, by decide, by decide⟩, windowsLaidOut_of_none hwindow, rfl⟩

/-! ### Memory -/

/-- A change by a granted access that names no byte at y leaves that byte. -/
theorem move_read {F : List Flight} {s t : State} {y : Nat}
    (outside : ∀ f ∈ F, ∀ bytes, f.access = .write bytes → Outside y f.address bytes.length)
    (hs : MemoryCanonical s) (h : Move F s t) : t.mem.read y = s.mem.read y := by
  cases h with
  | calm h => rw [calm_mem h]
  | complete f e granted =>
    cases hx : f.access with
    | read n => rw [complete_read]
    | write bytes => exact complete_outside s _ _ e y hs (outside f granted bytes hx)
  | _ => rfl

/-- Settles O10. -/
theorem onlyGrantedWritesReachMemory : Obligations.OnlyGrantedWritesReachMemory := by
  intro c s t y hs h outside
  have key : MemoryCanonical t ∧ t.mem.read y = s.mem.read y :=
    (exec_moves h).keeps (P := fun u => MemoryCanonical u ∧ u.mem.read y = s.mem.read y)
      (fun u v hu m => ⟨move_memory hu.1 m, (move_read outside hu.1 m).trans hu.2⟩) ⟨hs, rfl⟩
  exact key.2

/-- A byte a write does not enable stays, stored or scrambled. -/
theorem store_disabled : ∀ (bytes : List (Option Byte)) (m : Memory) (a k : Nat), m.wf = true →
    a + bytes.length ≤ memorySize → bytes[k]? = some none →
    Memory.read (Memory.store m a bytes) (a + k) = Memory.read m (a + k)
  | [], _, _, _, _, _, hk => by simp at hk
  | x :: rest, m, a, 0, h, hb, hk => by
    obtain rfl : x = none := by simpa using hk
    refine read_store_outside rest m (a + 1) h fun j hj => ?_
    simp only [List.length_cons] at hb
    rw [Nat.mod_eq_of_lt (by omega)]
    omega
  | none :: rest, m, a, k + 1, h, hb, hk => by
    have := store_disabled rest m (a + 1) k h (by simp at hb; omega) (by simpa using hk)
    rwa [show a + 1 + k = a + (k + 1) by omega] at this
  | some v :: rest, m, a, k + 1, h, hb, hk => by
    simp only [List.length_cons] at hb
    have := store_disabled rest (Memory.write m a v) (a + 1) k (write_wf m a v h) (by omega)
      (by simpa using hk)
    rw [show a + 1 + k = a + (k + 1) by omega, read_write m a v h, Nat.mod_eq_of_lt (by omega),
      if_neg (by omega)] at this
    exact this

theorem scramble_disabled (n : Nat) : ∀ (bytes : List (Option Byte)) (m : Memory) (a k : Nat),
    m.wf = true → a + bytes.length ≤ memorySize → bytes[k]? = some none →
    Memory.read (Memory.scramble n m a bytes) (a + k) = Memory.read m (a + k)
  | [], _, _, _, _, _, hk => by simp at hk
  | x :: rest, m, a, 0, h, hb, hk => by
    obtain rfl : x = none := by simpa using hk
    refine read_scramble_outside n rest m (a + 1) h fun j hj => ?_
    simp only [List.length_cons] at hb
    rw [Nat.mod_eq_of_lt (by omega)]
    omega
  | none :: rest, m, a, k + 1, h, hb, hk => by
    have := scramble_disabled n rest m (a + 1) k h (by simp at hb; omega) (by simpa using hk)
    rwa [show a + 1 + k = a + (k + 1) by omega] at this
  | some v :: rest, m, a, k + 1, h, hb, hk => by
    simp only [List.length_cons] at hb
    have := scramble_disabled n rest (Memory.write m a _) (a + 1) k
      (write_wf m a (Config.failedWriteByte n a) h) (by omega) (by simpa using hk)
    rw [show a + 1 + k = a + (k + 1) by omega, read_write m a _ h, Nat.mod_eq_of_lt (by omega),
      if_neg (by omega)] at this
    exact this

/-- What the completion of a write leaves in memory, whatever its end. -/
theorem complete_writeLands (s : State) (address : Nat) (bytes : List (Option Byte)) (error : Bool)
    (hs : MemoryCanonical s) (hb : address + bytes.length ≤ memorySize) :
    WriteLands s.mem (s.complete address (.write bytes) error).mem address bytes error := by
  refine ⟨fun y hy => complete_outside s address (.write bytes) error y hs hy, ?_, ?_⟩
  · intro k hk
    cases error with
    | false => exact store_disabled bytes s.mem address k hs hb hk
    | true => exact scramble_disabled s.freeCount bytes s.mem address k hs hb hk
  · rintro rfl k v hk
    exact read_store_inside bytes s.mem address k v hs hb hk

/-- Settles O11. -/
theorem completedAccessInMemory : Obligations.CompletedAccessInMemory :=
  fun s address bytes n error hs hb =>
    ⟨complete_read s address n error, complete_writeLands s address bytes error hs hb⟩

end Sys2Proof.Machine
end

section
/-! PROOFS. Commands never stop and hand everything on; resets, the test port and time. -/

namespace Sys2Proof.Machine

/-! ### A command completes and leaves the queue (log 4) -/

theorem move_pending {F : List Flight} {s t : State} (h : Move F s t) : t.pending = s.pending := by
  cases h with
  | calm h => exact runs_pending h.runs
  | complete f e _ => exact complete_pending s _ _ e
  | _ => rfl

theorem exec_pending {c : Instr} {s t : State} (h : exec c s = .next t) : t.pending = s.pending :=
  (exec_moves h).keeps (P := fun u => u.pending = s.pending)
    (fun _ _ hu m => (move_pending m).trans hu) rfl

theorem perform_next (s : State) (code : Nat) (act : List Nat → State → Answer) :
    ∃ t, s.perform code act = .next t := by
  unfold State.perform
  split <;> exact ⟨_, rfl⟩

theorem ite_next {c : Prop} [Decidable c] (a b : State) :
    ∃ t, (if c then Host.Outcome.next a else .next b : Host.Outcome State Fault Refusal) = .next t := by
  split <;> exact ⟨_, rfl⟩

theorem execSnapshot_next (s : State) : ∃ t, execSnapshot s = .next t := by
  unfold execSnapshot
  split
  · exact ⟨_, rfl⟩
  · dsimp only
    split <;> exact ⟨_, rfl⟩

theorem exec_next (c : Instr) (s : State) (h : c.wellFormed = true) : ∃ t, exec c s = .next t := by
  cases c with
  | powerOn | fuseProgramming | commandTaken | purge | restart | activationMarkReached
  | expiryMarkReached | renewalDueMarkReached | drainDeadlineReached | gatherMarkReached
  | retryMarkReached | heartbeatMarkReached | linkSilenceMarkReached => exact ⟨_, rfl⟩
  | defineWindow | clearWindow | setContext | setGrouping | setNotice | setHeartbeat | sealParcel
  | release | activateNow | retire => exact perform_next s _ _
  | startUpResultWriteDone | argumentReadFailed | resultWriteDone | snapshotWriteDone
  | sealReadbackDone | headLineWriteDone | checkHeadLineRead | checkPayloadRead
  | renewalHeadLineRead | renewalPayloadRead | importReadDone | postWriteDone | countersWriteDone
  | noticeImageWriteDone => exact onCompletion_next s _ _ _
  | resetLineReleased | rootFuseStoreRead | heartbeat | receipt | restartReset | downstreamGrant
  | postWriteIssue | tick => exact ite_next _ _
  | upstreamRequest r => exact ⟨_, if_pos h⟩
  | controlWindowWrite offset bytes => exact ⟨_, if_pos h⟩
  | snapshot => exact execSnapshot_next s
  | resetLineAsserted ends =>
    show ∃ t, execResetLineAsserted ends s = .next t
    unfold execResetLineAsserted
    split <;> exact ⟨_, rfl⟩
  | boundaryScanSelected ends =>
    show ∃ t, execBoundaryScanSelected ends s = .next t
    unfold execBoundaryScanSelected
    split <;> exact ⟨_, rfl⟩
  | passingPieceDone error =>
    show ∃ t, execPassingPieceDone error s = .next t
    unfold execPassingPieceDone
    split <;> exact ⟨_, rfl⟩

/-- Settles O2. -/
theorem commandsNeverStop : Obligations.CommandsNeverStop := by
  intro c s h
  obtain ⟨t, ht⟩ := exec_next c s h
  exact ⟨t, ht, exec_pending ht⟩

/-! ### A step hands on what it has to hand on (log 16) -/

@[simp] theorem issueCounters_transit (s : State) : s.issueCounters.transit = s.transit := by
  unfold State.issueCounters
  split <;> rfl

@[simp] theorem issueCounters_mode (s : State) : s.issueCounters.mode = s.mode := by
  unfold State.issueCounters
  split <;> rfl

@[simp] theorem pump_transit (s : State) : s.pump.transit = s.transit := by
  unfold State.pump
  split <;> simp

@[simp] theorem finish_transit (s : State) : s.finish.transit = Transit.empty := by
  rw [State.finish, pump_transit]
  rfl

theorem answer_settled (s : State) : Settled s.answer := finish_transit _

theorem takeWaitingFuel_settled : ∀ (n : Nat) (s : State), Settled s →
    Settled (State.takeWaitingFuel n s)
  | 0, _, h => h
  | n + 1, s, h => by
    unfold State.takeWaitingFuel
    split
    · exact h
    · split
      · exact takeWaitingFuel_settled n _ (answer_settled _)
      · exact h

theorem takeWaiting_settled {s : State} (h : Settled s) : Settled s.takeWaiting :=
  takeWaitingFuel_settled _ s h

theorem deliver_settled {s : State} (m : MarkReport) (h : Settled s) : Settled (s.deliver m) := by
  unfold State.deliver
  split
  · exact finish_transit _
  · exact h

theorem deliverAll_settled {s : State} (h : Settled s) : Settled s.deliverAll :=
  List.foldlRecOn allReports _ h fun _ ht m _ => deliver_settled m ht

theorem advanceTick_settled {s : State} (h : Settled s) : Settled s.advanceTick := h

theorem runFlights_transit : ∀ (l : List Flight) (s : State) (ends : List Bool),
    (s.runFlights l ends).transit = s.transit
  | [], _, _ => rfl
  | _ :: rest, _, ends => (runFlights_transit rest _ ends.tail).trans (complete_transit _ _ _ _)

theorem outcome_settled {a t : State}
    (h : (.next a : Host.Outcome State Fault Refusal) = .next t) (ha : Settled a) : Settled t := by
  injection h with h
  exact h ▸ ha

theorem ite_settled {c : Prop} [Decidable c] {a b t : State}
    (h : (if c then .next a else .next b : Host.Outcome State Fault Refusal) = .next t)
    (ha : Settled a) (hb : Settled b) : Settled t := by
  split at h
  · exact outcome_settled h ha
  · exact outcome_settled h hb

theorem onCompletion_settled {s t : State} {d : Purpose → Bool} {b : Bool}
    {act : List Byte → State → State} (hs : Settled s) (h : s.onCompletion d b act = .next t) :
    Settled t := by
  unfold State.onCompletion at h
  split at h
  · exact outcome_settled h hs
  · exact outcome_settled h (finish_transit _)

theorem perform_settled {s t : State} {code : Nat} {act : List Nat → State → Answer}
    (hs : Settled s) (h : s.perform code act = .next t) : Settled t := by
  unfold State.perform at h
  split at h
  · exact outcome_settled h hs
  · exact outcome_settled h (finish_transit _)

theorem execSnapshot_settled {s t : State} (hs : Settled s) (h : execSnapshot s = .next t) :
    Settled t := by
  unfold execSnapshot at h
  split at h
  · exact outcome_settled h hs
  · dsimp only at h
    split at h
    · exact outcome_settled h (finish_transit _)
    · exact outcome_settled h (finish_transit _)

theorem dropWork_settled {s : State} (ends : List Bool) (h : Settled s) :
    Settled (s.dropWork ends) :=
  (runFlights_transit s.path.flight s ends).trans h

theorem exec_settled {c : Instr} {s t : State} (hs : Settled s) (h : exec c s = .next t) :
    Settled t := by
  cases c with
  | powerOn => exact outcome_settled h rfl
  | resetLineAsserted ends =>
    change execResetLineAsserted ends s = .next t at h
    unfold execResetLineAsserted at h
    split at h
    · exact outcome_settled h (dropWork_settled ends hs)
    · exact outcome_settled h (dropWork_settled ends hs)
    · exact outcome_settled h hs
    · exact outcome_settled h hs
  | boundaryScanSelected ends =>
    change execBoundaryScanSelected ends s = .next t at h
    unfold execBoundaryScanSelected at h
    split at h
    · exact outcome_settled h (dropWork_settled ends hs)
    · exact outcome_settled h (dropWork_settled ends hs)
    · exact outcome_settled h hs
    · exact outcome_settled h hs
  | resetLineReleased => exact ite_settled h rfl hs
  | restartReset => exact ite_settled h rfl hs
  | fuseProgramming program => exact outcome_settled h hs
  | rootFuseStoreRead => exact ite_settled h (takeWaiting_settled (finish_transit _)) hs
  | heartbeat | receipt | postWriteIssue => exact ite_settled h (finish_transit _) hs
  | commandTaken | purge | restart => exact outcome_settled h (finish_transit _)
  | downstreamGrant =>
    refine ite_settled h hs ?_
    unfold State.grant
    split
    · exact hs
    · exact hs
    · split <;> exact hs
    · split <;> exact hs
  | tick =>
    exact ite_settled h (advanceTick_settled (deliverAll_settled hs)) hs
  | defineWindow | clearWindow | setContext | setGrouping | setNotice | setHeartbeat | sealParcel
  | release | activateNow | retire => exact perform_settled hs h
  | startUpResultWriteDone | argumentReadFailed | resultWriteDone | snapshotWriteDone
  | sealReadbackDone | headLineWriteDone | checkHeadLineRead | checkPayloadRead
  | renewalHeadLineRead | renewalPayloadRead | importReadDone | postWriteDone | countersWriteDone
  | noticeImageWriteDone => exact onCompletion_settled hs h
  | activationMarkReached | expiryMarkReached | renewalDueMarkReached | drainDeadlineReached
  | gatherMarkReached | retryMarkReached | heartbeatMarkReached | linkSilenceMarkReached =>
    exact outcome_settled h (deliver_settled _ hs)
  | snapshot => exact execSnapshot_settled hs h
  | upstreamRequest r =>
    change execUpstreamRequest r s = .next t at h
    unfold execUpstreamRequest at h
    split at h
    · refine outcome_settled h ?_
      unfold State.arrive
      exact takeWaiting_settled hs
    · exact absurd h (by simp)
  | controlWindowWrite offset bytes =>
    change execControlWindowWrite offset bytes s = .next t at h
    unfold execControlWindowWrite at h
    split at h
    · refine outcome_settled h ?_
      unfold State.arrive
      exact takeWaiting_settled hs
    · exact absurd h (by simp)
  | passingPieceDone error =>
    change execPassingPieceDone error s = .next t at h
    unfold execPassingPieceDone at h
    split at h
    · exact outcome_settled h (takeWaiting_settled (answer_settled _))
    · exact outcome_settled h hs

/-- Settles O8. Every command ends by settling, or leaves what is in transit. -/
theorem stepSettles : Obligations.StepSettles := by
  intro s t hs h
  rcases step_next h with rfl | ⟨c, rest, _, hc⟩
  · exact hs
  · exact exec_settled (s := { s with pending := rest }) hs hc

/-! ### Resets -/

/-- Settles O12. -/
theorem resetValues : Obligations.ResetValues := by
  refine ⟨?window, ?slot, ?context, rfl, rfl, rfl, rfl, rfl, ?link, rfl, rfl, rfl, rfl, ?counter,
    rfl, rfl, rfl, rfl, rfl, rfl, rfl, rfl, rfl, rfl, rfl, rfl, rfl, rfl, rfl⟩
  case window => exact fun w => Vector.getElem_replicate _
  case slot => exact fun i => Vector.getElem_replicate _
  case context =>
    intro c
    have hrow : State.reset.context c = { settings := Settings.default, floor := 0, holdLine := true } :=
      Vector.getElem_replicate _
    rw [hrow]
    exact ⟨rfl, rfl, rfl⟩
  case link => exact fun c => Vector.getElem_replicate _
  case counter => exact fun x => Vector.getElem_replicate _

/-- Settles O13. -/
theorem resetsGiveResetValues : Obligations.ResetsGiveResetValues := by
  refine fun s => ⟨rfl, fun h => if_pos h, fun h1 h2 h3 => if_pos ⟨h1, h2, h3⟩, ?_, rfl, rfl⟩
  rintro - (h | h)
  · exact if_neg fun x => h x.2.1
  · exact if_neg fun x => h x.2.2

/-! ### The held part (R56) -/

/-- Accesses that run to their end change memory and the count of failed writes only. -/
theorem runFlights_eq : ∀ (l : List Flight) (s : State) (ends : List Bool),
    s.runFlights l ends = { s with
      mem := (s.runFlights l ends).mem, freeCount := (s.runFlights l ends).freeCount }
  | [], _, _ => rfl
  | f :: rest, s, ends => by
    obtain ⟨m, n, h⟩ : ∃ m n, s.complete f.address f.access (ends.headD false) =
        { s with mem := m, freeCount := n } := ⟨_, _, complete_eq _ _ _ _⟩
    show (s.complete f.address f.access (ends.headD false)).runFlights rest ends.tail = { s with
      mem := ((s.complete f.address f.access (ends.headD false)).runFlights rest ends.tail).mem,
      freeCount :=
        ((s.complete f.address f.access (ends.headD false)).runFlights rest ends.tail).freeCount }
    rw [h]
    exact runFlights_eq rest _ _

/-- The ends are taken one after another, a missing one meaning no error (log 28). -/
theorem runFlights_foldl : ∀ (l : List Flight) (s : State) (ends : List Bool) (k : Nat),
    s.runFlights l (ends.drop k) =
      (l.zipIdx k).foldl (fun x f => x.complete f.1.address f.1.access (ends.getD f.2 false)) s
  | [], _, _, _ => rfl
  | f :: rest, s, ends, k => by
    show State.runFlights (s.complete f.address f.access ((ends.drop k).headD false)) rest
      (ends.drop k).tail = _
    rw [List.tail_drop, runFlights_foldl rest _ ends (k + 1), List.zipIdx_cons, List.foldl_cons]
    congr 2
    simp [List.headD_eq_head?_getD, List.getD_eq_getElem?_getD]

theorem ended_response (x : Taken) : x.ended =
    { request := x.request, ok := false,
      data := if x.request.access.isWrite then [] else List.replicate x.request.access.count 0 } := by
  unfold Taken.ended
  cases x.request.access <;> rfl

theorem exec_held_of_working {s : State} {ends : List Bool} {held : PartMode} {c : Instr}
    (hc : c = .resetLineAsserted ends ∧ held = .resetLow ∨
      c = .boundaryScanSelected ends ∧ held = .scanHeld)
    (hm : s.mode = .running ∨ s.mode = .restarting) :
    exec c s = .next { s.dropWork ends with mode := held } := by
  rcases hc with ⟨rfl, rfl⟩ | ⟨rfl, rfl⟩
  · show execResetLineAsserted ends s = _
    unfold execResetLineAsserted
    rcases hm with hm | hm <;> rw [hm]
  · show execBoundaryScanSelected ends s = _
    unfold execBoundaryScanSelected
    rcases hm with hm | hm <;> rw [hm]

/-- Settles O14. -/
theorem heldPartDropsItsWork : Obligations.HeldPartDropsItsWork := by
  intro s ends held c hc landed
  have hheld : held.held = true := by rcases hc with ⟨_, rfl⟩ | ⟨_, rfl⟩ <;> rfl
  have hland : landed = s.runFlights s.path.flight ends :=
    (runFlights_foldl s.path.flight s ends 0).symm
  refine ⟨fun hm => ⟨_, exec_held_of_working hc hm, ?_, ?_, ?_, ?_⟩, ?_, ?_, ?_⟩
  · rw [hland, State.dropWork, funext ended_response]
    conv_lhs => rw [runFlights_eq]
  · simp [State.attnLine, hheld]
  · intro d
    simp [State.holdLine, hheld]
  · intro f bytes hf hx hmem hb
    show WriteLands s.mem (s.runFlights s.path.flight ends).mem _ _ _
    rw [hf]
    show WriteLands s.mem (s.complete f.address f.access (ends.headD false)).mem _ _ _
    rw [hx]
    exact complete_writeLands s _ _ _ hmem hb
  · intro hm
    show execResetLineAsserted ends s = _
    rw [execResetLineAsserted, hm]
  · intro hm
    show execBoundaryScanSelected ends s = _
    rw [execBoundaryScanSelected, hm]
  · intro hm
    rcases hc with ⟨rfl, _⟩ | ⟨rfl, _⟩
    · show execResetLineAsserted ends s = _
      rw [execResetLineAsserted, hm]
    · show execBoundaryScanSelected ends s = _
      rw [execBoundaryScanSelected, hm]

/-- Settles O15. -/
theorem fuseProgrammingSetsBits : Obligations.FuseProgrammingSetsBits := by
  intro s id key
  have hexec : ∀ p, exec (.fuseProgramming p) s = .next { s with fuses := s.fuses.program p } :=
    fun _ => rfl
  refine ⟨fun h => ⟨?_, ?_, ?_⟩, fun h p => ?_⟩ <;> simp [hexec, FuseStore.program, h]

/-! ### Time -/

theorem deliver_not_due {s : State} {m : MarkReport} (h : s.reportDue m = false) :
    s.deliver m = s := by
  rw [State.deliver, if_neg (by simp [h])]

theorem deliverAll_none_due {s : State} (h : ∀ m ∈ allReports, s.reportDue m = false) :
    s.deliverAll = s :=
  List.foldlRecOn (motive := fun t => t = s) allReports _ rfl fun t ht m hm => by
    rw [ht, deliver_not_due (h m hm)]

/-- Settles O35. -/
theorem tickAdvances : Obligations.TickAdvances := by
  refine fun s => ⟨fun hm hd => ?_, fun hm => if_neg hm⟩
  show execTick s = _
  rw [execTick, if_pos hm, deliverAll_none_due hd, State.advanceTick, State.ageRecords,
    funext (countUp_eq 65535)]

theorem reached_iff (now mark : Tick) : reached now mark = true ↔ (now - mark).toNat < 2147483648 := by
  simp [reached]

theorem ahead_sub_ahead (now : Tick) (k d : Nat) :
    ahead now k - ahead now d = BitVec.ofNat 32 k - BitVec.ofNat 32 d := by
  unfold ahead
  ring

/-- Settles O36. -/
theorem marksAreReachedOnTime : Obligations.MarksAreReachedOnTime := by
  intro now distance k hd
  rw [← Bool.not_eq_true, reached_iff, ahead_sub_ahead, BitVec.toNat_sub, BitVec.toNat_ofNat,
    BitVec.toNat_ofNat]
  omega

end Sys2Proof.Machine
end

section
/-! PROOFS. The rows of R23, the fault unit's events, and the marks that no changeover follows. -/

namespace Sys2Proof.Machine

/-! ### The rows of R23 -/

/-- Settles O21. Each row by the states, and the write's form, that its entry of the
table reads. -/
theorem accessOutcomes : Obligations.AccessOutcomes := by
  intro role st release marker head
  refine ⟨?_, rfl, rfl, ?_, rfl, ?_, ?_, ?_, rfl, rfl, rfl, ?_, ?_, ?_, ?_, ?_, ?_, ?_⟩
  · cases st <;> rfl
  · cases st <;> cases release <;> rfl
  · cases head <;> rfl
  · rfl
  · cases st <;> rfl
  · rfl
  · cases st <;> rfl
  · cases st <;> cases release <;> rfl
  · cases head <;> rfl
  · cases st <;> rfl
  · cases st <;> rfl
  · cases st <;> rfl

/-! ### Fault events (R123 to R127) -/

theorem takeEvent_room {s : State} (h : s.fault.queue.length < 8) (e : FaultEvent) :
    s.takeEvent e = s.makeRecord e := by
  rw [State.takeEvent, if_pos (by simpa [State.queueHasRoom] using h)]

theorem takeEvent_full {s : State} (h : 8 ≤ s.fault.queue.length) (e : FaultEvent) :
    s.takeEvent e = s.loseEvent e := by
  rw [State.takeEvent, if_neg (by simpa [State.queueHasRoom] using h)]

/-- The fault unit once a record has been made, the gather mark aside. -/
theorem makeRecord_fault (s : State) (e : FaultEvent) :
    (s.makeRecord e).fault = { s.fault with
      queue := s.fault.queue ++ [s.newRecord e],
      nextOrdinal := nextOrdinalAfter s.fault.nextOrdinal, attn := true,
      postPending := s.fault.postPending || s.fault.posted.isNone || !s.fault.postSound,
      postFence := s.fault.postFence || s.fault.posted.isNone || !s.fault.postSound } := by
  have hattn : attnLevel (s.fault.queue ++ [s.newRecord e]) = true := by
    simp [attnLevel, State.newRecord]
  unfold State.makeRecord
  dsimp only
  split <;> rename_i hpost <;> split <;>
    simp [State.evaluateAttn, State.startPosting, hattn, Bool.or_assoc, hpost]

theorem makeRecord_gather (s : State) (e : FaultEvent) :
    (s.makeRecord e).composer.gather =
      if s.recordsAtNo = [] ∧ s.noticeWindow.isSome = true then
        { value := some (ahead s.time.tick s.composer.gatherTime),
          latch := decide (s.composer.gatherTime = 0) }
      else if s.recordsAtNo = [] then { value := none, latch := false }
      else s.composer.gather := by
  unfold State.makeRecord
  dsimp only
  by_cases hr : s.recordsAtNo = []
  · have hf : s.fault.queue.filter (fun r => decide (r.office = .no)) = [] := hr
    cases hw : s.noticeWindow.isSome <;> split <;>
      simp [State.evaluateAttn, State.startPosting, State.setGather, State.recordsAtNo,
        State.newRecord, State.newOfficeMark, hw, hf, Mark.absent]
  · split <;> simp [hr, State.evaluateAttn, State.startPosting]

theorem makeRecord_examine (s : State) (e : FaultEvent) :
    (s.makeRecord e).transit.examine = true := rfl

theorem loseEvent_eq (s : State) (e : FaultEvent) :
    s.loseEvent e = { s with fault := { s.fault with
      overflow := if e.kind ∈ s.fault.overflow then s.fault.overflow
                  else s.fault.overflow ++ [e.kind],
      lostSinceSummary := min 4294967295 (s.fault.lostSinceSummary + 1),
      lostTotal := min 4294967295 (s.fault.lostTotal + 1),
      countersStale := true, countersWanted := true } } := by
  rw [← countUp_eq, ← countUp_eq]
  rfl

theorem refusedAccessEvent_kind (s : State) (x : Fin 9) (y : RefusalReason) (z : Option Nat) :
    (s.refusedAccessEvent x y z).kind = .refusedAccess := by
  unfold State.refusedAccessEvent
  split <;> rfl

/-- Settles O30. -/
theorem eventsBecomeRecords : Obligations.EventsBecomeRecords := by
  intro s e x reason parcel
  refine ⟨fun h => ?room, fun h => ?full, fun h h0 => ⟨?refused, refusedAccessEvent_kind _ _ _ _⟩⟩
  case room =>
    simp only [takeEvent_room h, makeRecord_fault, makeRecord_gather, makeRecord_examine]
    exact ⟨rfl, rfl, trivial, trivial, trivial, trivial, trivial, trivial, trivial⟩
  case full => rw [takeEvent_full h, loseEvent_eq]
  case refused =>
    have hroom : s.queueHasRoom = false := by simpa [State.queueHasRoom] using h
    rw [takeEvent_full (by exact h), State.takeRefusal]
    simp only [h0, hroom, if_true]
    rfl

/-! ### What a step hands on, and the end of a step that reports a mark -/

/-- A state with events to hand on, and perhaps an examination, where nothing else is. -/
def State.handing (s : State) (events : List FaultEvent) (examine : Bool) : State :=
  { s with transit := { reports := events.map .event, examine := examine } }

/-- A settled state hands on nothing. -/
theorem settled_handing {s : State} (h : Settled s) : s = s.handing [] false := by
  show s = { s with transit := Transit.empty }
  rw [← h]

@[simp] theorem handing_raise (s : State) (l : List FaultEvent) (x : Bool) (e : FaultEvent) :
    (s.handing l x).raise e = s.handing (l ++ [e]) x := by
  simp [State.raise, State.handing]

theorem raise_settled {s : State} (h : Settled s) (e : FaultEvent) :
    s.raise e = s.handing [e] false := by
  rw [State.raise, h]
  rfl

@[simp] theorem handing_noteExamination (s : State) (l : List FaultEvent) (x : Bool) :
    (s.handing l x).noteExamination = s.handing l true := rfl

@[simp] theorem handing_updateSlot (s : State) (l : List FaultEvent) (x : Bool) (i : SlotId)
    (f : KeySlot → KeySlot) : (s.handing l x).updateSlot i f = (s.updateSlot i f).handing l x := by
  unfold State.updateSlot
  split <;> rfl

@[simp] theorem handing_updateContext (s : State) (l : List FaultEvent) (x : Bool) (c : Ctx)
    (f : ContextRow → ContextRow) :
    (s.handing l x).updateContext c f = (s.updateContext c f).handing l x := rfl

@[simp] theorem handing_updateParcel (s : State) (l : List FaultEvent) (x : Bool) (w : WindowIndex)
    (p : Nat) (f : ParcelRecord → ParcelRecord) :
    (s.handing l x).updateParcel w p f = (s.updateParcel w p f).handing l x := by
  unfold State.updateParcel
  rw [show (s.handing l x).window w = s.window w from rfl]
  split <;> rfl

theorem finish_handing {b : State} {events : List FaultEvent} {x : Bool}
    (hm : b.mode = .running) : EndsAs b (b.handing events x).finish [] events :=
  finish_of hm (by simp [State.handing])

theorem finish_wanting {b : State} {new : List InternalRequest} {events : List FaultEvent}
    {x : Bool} (hm : b.mode = .running) :
    EndsAs b ((b.wantAll new).handing events x).finish new events :=
  finish_of hm rfl

theorem deliver_due {s : State} {m : MarkReport} (hm : s.mode = .running)
    (h : s.reportDue m = true) : s.deliver m = (s.actOnReport m).finish := by
  rw [State.deliver, if_pos ⟨hm, h⟩]

/-- A due mark report, by what its owner does. -/
theorem goesTo_report {s b : State} {c : Instr} {m : MarkReport} {events : List FaultEvent}
    (hc : exec c s = .next (s.deliver m)) (hm : s.mode = .running) (hd : s.reportDue m = true)
    (hbm : b.mode = .running) (hu : ∃ x, s.actOnReport m = b.handing events x) :
    GoesTo s c b [] events := by
  obtain ⟨x, hu⟩ := hu
  exact ⟨_, hc.trans (by rw [deliver_due hm hd, hu]), finish_handing hbm⟩

/-! ### The watches and the composer's marks (R145, R154, R161 to R165) -/

theorem watch_due {m : Mark} {now v : Tick} (h : m = { value := some v, latch := false })
    (hr : reached now v = true) : m.due now = true := by
  simp [Mark.due, h, hr]

theorem watch_idle {m : Mark} {now : Tick}
    (h : ∀ u, m = { value := some u, latch := false } → reached now u = false) :
    m.due now = false := by
  obtain ⟨value, latch⟩ := m
  cases value with
  | none => rfl
  | some u => cases latch with
    | true => rfl
    | false => simp [Mark.due, h u rfl]

/-- A heartbeat, the watch being on. -/
theorem takeHeartbeat_on {s : State} (ht : Settled s) (h : s.time.heartbeat.period ≠ 0) :
    s.takeHeartbeat =
      State.handing
        { s with time := { s.time with heartbeat :=
            { s.time.heartbeat with
              mark := { value := some (ahead s.time.tick s.time.heartbeat.period), latch := false },
              silent := false } } }
        (if s.time.heartbeat.silent then [watchEvent .controllerResumed none] else []) false := by
  rw [State.takeHeartbeat, if_neg h]
  cases hw : s.time.heartbeat.silent <;>
    simp [State.handing, State.setHeartbeatWatch, State.raise, Watch.restart, Mark.set, ht,
      Transit.empty]

/-- Settles O37. -/
theorem heartbeatRestartsWatch : Obligations.HeartbeatRestartsWatch := by
  intro s hs
  obtain ⟨hm, ht⟩ := hs
  have hexec : exec .heartbeat s = .next s.takeHeartbeat.finish := if_pos hm
  refine ⟨fun h0 => ⟨_, hexec, ?off⟩, fun h0 => ⟨_, hexec, ?on⟩⟩
  case off =>
    rw [State.takeHeartbeat, if_pos h0]
    exact finish_nothing hm (by rw [ht]; rfl)
  case on =>
    rw [takeHeartbeat_on ht h0]
    exact finish_handing hm

/-- Settles O38. -/
theorem watchAndComposerMarksReached : Obligations.WatchAndComposerMarksReached := by
  intro s c v hs
  obtain ⟨hm, ht⟩ := hs
  have hsame := settled_handing ht
  refine ⟨fun hr => ⟨fun h => ?heartbeat, fun h => ?link, fun h => ?gather, fun h => ?retry⟩,
    fun h => ?_, fun h => ?_, fun h => ?_, fun h => ?_⟩
  case heartbeat =>
    exact goesTo_report (m := .heartbeat) rfl hm (watch_due h hr) hm
      ⟨false, (congrArg State.heartbeatReached hsame).trans rfl⟩
  case link =>
    exact goesTo_report (m := .link c) rfl hm (watch_due h hr) hm
      ⟨true, (congrArg (State.linkSilenceReached · c) hsame).trans rfl⟩
  case gather =>
    refine goesTo_report (m := .gather) rfl hm (watch_due h hr) hm
      ⟨true, (congrArg State.gatherReached hsame).trans ?_⟩
    rw [← h]
    rfl
  case retry =>
    refine goesTo_report (m := .retry) rfl hm (watch_due h hr) hm
      ⟨true, (congrArg State.retryReached hsame).trans ?_⟩
    rw [← h]
    rfl
  · exact congrArg _ (deliver_not_due (m := .heartbeat) (watch_idle h))
  · exact congrArg _ (deliver_not_due (m := .link c) (watch_idle h))
  · exact congrArg _ (deliver_not_due (m := .gather) (watch_idle h))
  · exact congrArg _ (deliver_not_due (m := .retry) (watch_idle h))

/-! ### Slots of a context -/

/-- Slots of a state that agree in state and context are in service alike. -/
theorem slotsIn_congr {s t : State} (c : Ctx) (st : SlotState)
    (h : ∀ i, (t.slot i).state = (s.slot i).state ∧ (t.slot i).context = (s.slot i).context) :
    t.slotsIn c st = s.slotsIn c st :=
  List.filter_congr fun i _ => by rw [(h i).1, (h i).2]

theorem activeSlot_congr {s t : State} (c : Ctx)
    (h : ∀ i, (t.slot i).state = (s.slot i).state ∧ (t.slot i).context = (s.slot i).context) :
    t.activeSlot c = s.activeSlot c :=
  congrArg List.head? (slotsIn_congr c .active h)

/-- With one of each, the slot in service is the first found. -/
theorem head_slotsIn {s : State} (h : OneEach s) {c : Ctx} {st : SlotState} {i : SlotId}
    (hst : st = .active ∨ st = .draining) (hi : i ≠ 0) (hc : (s.slot i).context = c)
    (hs : (s.slot i).state = st) : (s.slotsIn c st).head? = some i := by
  cases hl : s.slotsIn c st with
  | nil => exact absurd (slotsIn_mem.mpr ⟨hi, hc, hs⟩) (by simp [hl])
  | cons j rest =>
    obtain ⟨hj, hjc, hjs⟩ := slotsIn_mem.mp (hl ▸ List.mem_cons_self : j ∈ s.slotsIn c st)
    have : j = i := h j i hj hi (hjc.trans hc.symm) (hjs.trans hs.symm) (hjs ▸ hst)
    rw [List.head?_cons, this]

theorem activeSlot_eq {s : State} (h : OneEach s) {c : Ctx} {i : SlotId} (hi : i ≠ 0)
    (hc : (s.slot i).context = c) (hs : (s.slot i).state = .active) : s.activeSlot c = some i :=
  head_slotsIn h (.inl rfl) hi hc hs

theorem activeSlot_mem {s : State} {c : Ctx} {i : SlotId} (h : s.activeSlot c = some i) :
    i ≠ 0 ∧ (s.slot i).context = c ∧ (s.slot i).state = .active :=
  slotsIn_mem.mp (head_mem h)

theorem drainingSlot_mem {s : State} {c : Ctx} {i : SlotId} (h : s.drainingSlot c = some i) :
    i ≠ 0 ∧ (s.slot i).context = c ∧ (s.slot i).state = .draining :=
  slotsIn_mem.mp (head_mem h)

theorem updateSlot_eq {s : State} {i : SlotId} (hi : i ≠ 0) (f : KeySlot → KeySlot) :
    s.updateSlot i f =
      { s with keys := { s.keys with slots := s.keys.slots.set i (f (s.slot i)) } } :=
  if_neg hi

theorem slot_updateSlot_same {s : State} {i : SlotId} (hi : i ≠ 0) (f : KeySlot → KeySlot) :
    (s.updateSlot i f).slot i = f (s.slot i) := by
  rw [slot_updateSlot, if_pos ⟨rfl, hi⟩]

/-- A change of one slot that keeps its state and context moves no slot. -/
theorem updateSlot_service {s : State} {i : SlotId} {f : KeySlot → KeySlot}
    (h : (f (s.slot i)).state = (s.slot i).state ∧ (f (s.slot i)).context = (s.slot i).context)
    (j : SlotId) : ((s.updateSlot i f).slot j).state = (s.slot j).state ∧
      ((s.updateSlot i f).slot j).context = (s.slot j).context := by
  rw [slot_updateSlot]
  split
  · rename_i hj
    rw [hj.1]
    exact h
  · exact ⟨rfl, rfl⟩

theorem updateSlot_twice (s : State) (i : SlotId) (f g : KeySlot → KeySlot) :
    (s.updateSlot i f).updateSlot i g = s.updateSlot i (g ∘ f) := by
  by_cases hi : i = 0
  · simp [State.updateSlot, hi]
  · rw [updateSlot_eq hi g, slot_updateSlot_same hi, updateSlot_eq hi, updateSlot_eq hi]
    simp

/-! ### Renewal due and the drain deadline (R92, R94) -/

/-- Renewal due, evaluated for the ACTIVE slot i of context c. -/
theorem evaluateRenewalDue_active {s : State} {c : Ctx} {i : SlotId}
    (h : s.activeSlot c = some i) :
    s.evaluateRenewalDue c =
      if s.renewalIsDue c i = true then
        (s.updateSlot i fun k => { k with renewalDueRaised := true }).raise
          (keyEvent .renewalDue c (s.slot i).generation (s.slot i).remaining
            (s.remainingTicks (s.slot i)))
      else s := by
  rw [State.evaluateRenewalDue, h]

/-- A slot whose renewal-due mark has been reached. -/
def KeySlot.renewalLatched (k : KeySlot) : KeySlot :=
  { k with renewalDueLatch := true }

theorem renewalMarkReached_active {s : State} {i : SlotId} (ha : (s.slot i).state = .active) :
    s.renewalMarkReached i =
      (s.updateSlot i KeySlot.renewalLatched).evaluateRenewalDue (s.slot i).context :=
  if_neg (by simpa using ha)

theorem renewalMarkReached_left {s : State} {i : SlotId} (ha : (s.slot i).state ≠ .active) :
    s.renewalMarkReached i = s.updateSlot i KeySlot.renewalLatched :=
  if_pos ha

theorem renewalDue_due {s : State} {i : SlotId} (hi : i ≠ 0) (hk : (s.slot i).hasMarks = true)
    (hl : (s.slot i).renewalDueLatch = false)
    (hr : reached s.time.tick (s.slot i).renewalDueMark = true) :
    s.reportDue (.renewalDue i) = true := by
  simp [State.reportDue, State.renewalMarkDue, hi, hk, hl, hr]

/-- With the latch set, renewal is due unless it has been raised or something is staged. -/
theorem renewalIsDue_latched {s : State} {i : SlotId} (hi : i ≠ 0)
    (ha : (s.slot i).state = .active) :
    (s.updateSlot i KeySlot.renewalLatched).renewalIsDue (s.slot i).context i =
      (!(s.slot i).renewalDueRaised && (s.slotsIn (s.slot i).context .staged).isEmpty) := by
  rw [State.renewalIsDue, slot_updateSlot_same hi,
    slotsIn_congr (s := s) _ .staged (updateSlot_service ⟨rfl, rfl⟩)]
  simp [KeySlot.renewalLatched, ha]

/-- Settles O42. -/
theorem renewalDueAndDrainReached : Obligations.RenewalDueAndDrainReached := by
  intro s i hs h1 hi k put
  obtain ⟨hm, ht⟩ := hs
  have hsame := settled_handing ht
  have hput : ∀ f : KeySlot → KeySlot, s.updateSlot i f = put (f k) := fun f => updateSlot_eq hi f
  have hlatch : s.updateSlot i KeySlot.renewalLatched = (put k.renewalLatched).handing [] false := by
    rw [hput]
    exact settled_handing ht
  refine ⟨fun ha hl hr => ?active, fun ha hv hl hr => ?left, fun hd hl hr => ?drain⟩
  case active =>
    have hact : (s.updateSlot i KeySlot.renewalLatched).activeSlot k.context = some i :=
      (activeSlot_congr _ (updateSlot_service ⟨rfl, rfl⟩)).trans (activeSlot_eq h1 hi rfl ha)
    have hdue := renewalDue_due hi (by simp [KeySlot.hasMarks]; exact .inl ha) hl hr
    have heval : s.actOnReport (.renewalDue i) = _ :=
      (renewalMarkReached_active ha).trans (evaluateRenewalDue_active hact)
    rw [renewalIsDue_latched hi ha] at heval
    refine ⟨fun hraised hstaged =>
        goesTo_report (m := .renewalDue i) rfl hm hdue hm ⟨false, ?_⟩,
      fun h => goesTo_report (m := .renewalDue i) rfl hm hdue hm ⟨false, ?_⟩⟩
    · have hyes : (!(s.slot i).renewalDueRaised &&
          (s.slotsIn (s.slot i).context .staged).isEmpty) = true := by
        rw [show (s.slot i).renewalDueRaised = false from hraised,
          show s.slotsIn (s.slot i).context .staged = [] from hstaged]
        rfl
      rw [heval, if_pos hyes, updateSlot_twice, slot_updateSlot_same hi, hput, hput]
      exact raise_settled (s := put { k with renewalDueLatch := true, renewalDueRaised := true }) ht _
    · have hno : ¬(!(s.slot i).renewalDueRaised &&
          (s.slotsIn (s.slot i).context .staged).isEmpty) = true := by
        rcases h with h | h
        · rw [show (s.slot i).renewalDueRaised = true from h]
          exact Bool.false_ne_true
        · simp [show s.slotsIn (s.slot i).context .staged ≠ [] from h]
      rw [heval, if_neg hno, hlatch]
      rfl
  case left =>
    exact goesTo_report (m := .renewalDue i) rfl hm
      (renewalDue_due hi (by simp [KeySlot.hasMarks]; exact .inr hv) hl hr) hm
      ⟨false, (renewalMarkReached_left ha).trans hlatch⟩
  case drain =>
    refine goesTo_report (m := .drain i) rfl hm
      (by simp [State.reportDue, State.drainDue, hi]; exact ⟨⟨hd, hl⟩, hr⟩) hm ⟨false, ?_⟩
    rw [show s.actOnReport (.drain i) = s.drainReached i from rfl, State.drainReached, hput]
    exact settled_handing ht

end Sys2Proof.Machine
end

section
/-! PROOFS. Commands of the control window: how they are taken, checked and answered, and their settings. -/

namespace Sys2Proof.Machine

/-! ### The end of a command (R171, R172) -/

@[simp] theorem wantAll_nil (s : State) : s.wantAll [] = s := by
  simp [State.wantAll]

/-- s once the argument read of the command in progress has returned the words. -/
def State.argued (s : State) (words : List Nat) (rest : List Flight) : State :=
  { s with
    path := { s.path with flight := rest },
    command := { s.command with arguments := words } }

theorem argued_handing {s : State} (h : Settled s) (words : List Nat) (rest : List Flight) :
    s.argued words rest = (s.argued words rest).handing [] false :=
  settled_handing (s := s.argued words rest) h

theorem exec_of_argumentsRead {s : State} {code : Nat} {words : List Nat} {rest : List Flight}
    (h : ArgumentsRead s code words rest) {c : Instr} {act : List Nat → State → Answer}
    (hc : exec c s = s.perform code act) :
    exec c s = .next (act words (s.argued words rest)).finish.issueCounters.finish :=
  hc.trans (perform_of h act)

/-- The result write behind what a command has issued and told. -/
theorem finishCommand_wanting {s b : State} {words : List Nat} {rest : List Flight}
    {status : Status} {detail : Nat} {new : List InternalRequest} {events : List FaultEvent}
    {x : Bool} (hb : b.command = (s.ended words rest status detail).command)
    (hn : b.path.nextSerial = s.path.nextSerial) :
    ((State.wantAll { b with command := (s.argued words rest).command } new).handing
        events x).finishCommand status detail =
      (b.wantAll (new ++ [s.resultWrite s.command.ticket status detail])).handing events x := by
  simp only [State.finishCommand, State.want, State.wantAll, State.handing, State.resultWrite,
    hb, hn, List.append_assoc]
  rfl

/-- A step that performs a command, by what its checks and effect give. -/
theorem endsCommand_wanting {s b : State} {c : Instr} {code : Nat} {words : List Nat}
    {rest : List Flight} {act : List Nat → State → Answer} {status : Status} {detail : Nat}
    {new : List InternalRequest} {events : List FaultEvent} {x : Bool}
    (h : ArgumentsRead s code words rest) (hc : exec c s = s.perform code act)
    (ha : act words (s.argued words rest) =
      { status := status, detail := detail,
        state := (State.wantAll { b with command := (s.argued words rest).command } new).handing
          events x })
    (hm : b.mode = .running) (hb : b.command = (s.ended words rest status detail).command)
    (hn : b.path.nextSerial = s.path.nextSerial) :
    EndsCommand s c b new status detail events := by
  refine ⟨_, exec_of_argumentsRead h hc, ?_⟩
  rw [ha, Answer.finish, finishCommand_wanting hb hn]
  exact issueCounters_finish hm rfl

/-- The same for a command that issues its result write alone. -/
theorem endsCommand_of {s b : State} {c : Instr} {code : Nat} {words : List Nat}
    {rest : List Flight} {act : List Nat → State → Answer} {status : Status} {detail : Nat}
    {events : List FaultEvent}
    (h : ArgumentsRead s code words rest) (hc : exec c s = s.perform code act)
    (ha : ∃ x, act words (s.argued words rest) =
      { status := status, detail := detail,
        state := State.handing { b with command := (s.argued words rest).command } events x })
    (hm : b.mode = .running) (hb : b.command = (s.ended words rest status detail).command)
    (hn : b.path.nextSerial = s.path.nextSerial) :
    EndsCommand s c b [] status detail events := by
  obtain ⟨x, ha⟩ := ha
  exact endsCommand_wanting h hc (ha.trans (by rw [wantAll_nil])) hm hb hn

/-- A command whose check fails changes nothing but the result. -/
theorem endsCommand_failed {s : State} {c : Instr} {code : Nat} {words : List Nat}
    {rest : List Flight} {act : List Nat → State → Answer} {status : Status} {detail : Nat}
    (hs : Quiet s) (h : ArgumentsRead s code words rest) (hc : exec c s = s.perform code act)
    (ha : act words (s.argued words rest) =
      { status := status, detail := detail, state := s.argued words rest }) :
    EndsCommand s c (s.ended words rest status detail) [] status detail [] := by
  refine endsCommand_of h hc ⟨false, ha.trans ?_⟩ hs.1 rfl rfl
  exact congrArg _ (argued_handing hs.2 words rest)

/-! ### Clamps and codes -/

theorem atMost_eq (bound n : Nat) : atMost bound n = min bound n := by
  unfold atMost
  split <;> omega

theorem index?_val {k : Nat} (i : Fin k) : index? k i.val = some i :=
  dif_pos i.isLt

theorem index?_some {k n : Nat} (h : n < k) : index? k n = some ⟨n, h⟩ :=
  dif_pos h

theorem index?_none {k n : Nat} (h : k ≤ n) : index? k n = none :=
  dif_neg (by omega)

theorem groupingOf_code (g : Grouping) : groupingOf? g.code = some g := by
  cases g <;> rfl

theorem group_pairs (c : Ctx) :
    Grouping.group .pairs c = if c = 0 ∨ c = 1 then [0, 1] else [2, 3] := by
  revert c
  decide

/-! ### SET_GROUPING, SET_NOTICE, SET_HEARTBEAT (R84, R147, R160) -/

theorem setGather_gatherBy (s : State) :
    s.setGather = { s with composer := { s.composer with gather := s.gatherBy s.fault.queue } } := by
  unfold State.setGather State.gatherBy State.recordsAtNo
  cases s.fault.queue.filter fun r => decide (r.office = .no) with
  | nil => rfl
  | cons r rest => rfl

theorem applyHeartbeatPeriod_handing (s : State) (n : Nat) :
    (s.handing [] false).applyHeartbeatPeriod n =
      State.handing
        { s with time := { s.time with
            heartbeat :=
              if min 1073741824 n = 0 then Watch.off
              else
                { period := min 1073741824 n, silent := s.time.heartbeat.silent,
                  mark := Mark.set (ahead s.time.tick (min 1073741824 n)) } } }
        (if min 1073741824 n = 0 ∧ s.time.heartbeat.silent = true then
          [watchEvent .controllerResumed none] else []) false := by
  unfold State.applyHeartbeatPeriod
  rw [atMost_eq]
  by_cases h0 : min 1073741824 n = 0
  · cases hw : s.time.heartbeat.silent <;> simp only [h0, if_true, true_and, Bool.false_eq_true, if_false]
    · rw [if_neg (by exact fun h => absurd (hw.symm.trans h) (by decide))]
      rfl
    · rw [if_pos (by exact hw)]
      rfl
  · simp only [h0, if_false, false_and]
    rfl

/-- Settles O47. -/
theorem settingCommands : Obligations.SettingCommands := by
  intro s words rest g hs
  obtain ⟨hm, ht⟩ := hs
  refine ⟨fun h hg => ?grouping, fun c => ⟨rfl, rfl, group_pairs c⟩, fun h => ?notice,
    fun h => ?heartbeat⟩
  case grouping =>
    refine endsCommand_of h rfl ⟨false, ?_⟩ hm rfl rfl
    rw [answerSetGrouping, hg, groupingOf_code, argued_handing ht]
    rfl
  case notice =>
    refine endsCommand_of h rfl ⟨true, ?_⟩ hm rfl rfl
    rw [answerSetNotice, State.setGatherTime, atMost_eq, setGather_gatherBy, argued_handing ht]
    rfl
  case heartbeat =>
    refine endsCommand_of h rfl ⟨false, ?_⟩ hm rfl rfl
    rw [answerSetHeartbeat, argued_handing ht, applyHeartbeatPeriod_handing]
    rfl

/-! ### Completions -/

/-- A completion whose result is wanted, by what its issuer does with it. -/
theorem goesTo_completion_wanting {s b : State} {c : Instr} {p : Purpose} {r : InternalRequest}
    {rest : List Flight} {d : Purpose → Bool} {error : Bool} {act : List Byte → State → State}
    {new : List InternalRequest} {events : List FaultEvent} (h : Oldest s p r rest)
    (hc : exec c s = s.onCompletion d error act) (hd : d p = true) (hm : b.mode = .running)
    (hu : ∃ x, act (s.returned r.address r.access) (s.landed r rest error) =
      (b.wantAll new).handing events x) : GoesTo s c b new events := by
  obtain ⟨x, hu⟩ := hu
  refine ⟨_, hc.trans (onCompletion_of h d hd error act), ?_⟩
  rw [hu]
  exact issueCounters_finish hm rfl

/-- The same where it issues nothing. -/
theorem goesTo_completion {s b : State} {c : Instr} {p : Purpose} {r : InternalRequest}
    {rest : List Flight} {d : Purpose → Bool} {error : Bool} {act : List Byte → State → State}
    {events : List FaultEvent} (h : Oldest s p r rest)
    (hc : exec c s = s.onCompletion d error act) (hd : d p = true) (hm : b.mode = .running)
    (hu : ∃ x, act (s.returned r.address r.access) (s.landed r rest error) =
      b.handing events x) : GoesTo s c b [] events :=
  goesTo_completion_wanting h hc hd hm (by simpa using hu)

theorem landed_handing {s : State} (h : Settled s) (r : InternalRequest) (rest : List Flight)
    (error : Bool) : s.landed r rest error = (s.landed r rest error).handing [] false :=
  settled_handing (by simpa [Settled] using h)

@[simp] theorem handing_discard (s : State) (l : List FaultEvent) (x : Bool)
    (d : Purpose → Bool) : (s.handing l x).discard d = (s.discard d).handing l x := rfl

/-! ### The writes and reads of the command unit (R171, R172, R176, R179) -/

/-- The command unit once the command has ended with a status and a detail. -/
def CommandUnit.answered (u : CommandUnit) (status : Status) (detail : Nat) : CommandUnit :=
  { u with
    phase := .writingResult, resultTicket := u.ticket, resultStatus := status,
    resultDetail := detail, snapshot := none }

theorem handing_finishCommand (s : State) (l : List FaultEvent) (x : Bool) (status : Status)
    (detail : Nat) :
    (s.handing l x).finishCommand status detail =
      (State.wantAll { s with command := s.command.answered status detail }
        [s.resultWrite s.command.ticket status detail]).handing l x := rfl

theorem resultWrite_landed (s : State) (r : InternalRequest) (rest : List Flight) (error : Bool)
    (ticket : Nat) (status : Status) (detail : Nat) :
    (s.landed r rest error).resultWrite ticket status detail = s.resultWrite ticket status detail := by
  simp [State.resultWrite]

theorem snapshotWritten_counted {s : State} {run : SnapshotRun} (h : s.command.snapshot = some run)
    (hn : 2 ≤ run.writesLeft) :
    snapshotWritten false s = { s with command := { s.command with
      snapshot := some { run with writesLeft := run.writesLeft - 1 } } } := by
  rw [snapshotWritten, h]
  dsimp only
  rw [if_neg Bool.false_ne_true, if_neg (by omega), if_neg (by omega)]

theorem snapshotWritten_last {s : State} {run : SnapshotRun} (h : s.command.snapshot = some run)
    (hn : run.writesLeft = 1) :
    snapshotWritten false s =
      State.wantAll
        { s with command := { s.command with snapshot := some { run with writesLeft := 0 } } }
        [{ purpose := .snapshotHeader, ignored := false, address := 0xFFF100,
           access := wholeLine run.header, orderPoint := s.path.nextSerial }] := by
  rw [snapshotWritten, h]
  dsimp only
  rw [if_neg Bool.false_ne_true, if_neg (by omega), if_pos hn, hn]
  rfl

theorem snapshotWritten_header {s : State} {run : SnapshotRun} (h : s.command.snapshot = some run)
    (hn : run.writesLeft = 0) : snapshotWritten false s = s.finishCommand .done run.entries := by
  rw [snapshotWritten, h]
  dsimp only
  rw [if_neg Bool.false_ne_true, if_pos hn]

theorem snapshotWritten_failed {s : State} {run : SnapshotRun} (h : s.command.snapshot = some run) :
    snapshotWritten true s =
      ((s.discard snapshotPurpose).raise commandMemoryError).finishCommand .refused 255 := by
  rw [snapshotWritten, h]
  rfl

/-- Settles O52. -/
theorem commandWritesComplete : Obligations.CommandWritesComplete := by
  intro s r rest error hs failed answer result
  obtain ⟨hm, ht⟩ := hs
  have hl := landed_handing ht r rest
  have hlm : ∀ e, (s.landed r rest e).mode = .running := fun e => (landed_mode ..).trans hm
  refine ⟨fun h hw => ?argument, fun h => ?result, fun run hrun h => ?snapshot⟩
  case argument =>
    have hland : s.landed r rest true = { s with path := { s.path with flight := rest } } := by
      unfold State.landed
      cases ha : r.access with
      | read n => rfl
      | write bytes => rw [ha] at hw; exact absurd hw (by simp [Access.isWrite])
    refine goesTo_completion_wanting h (d := only .argument) rfl rfl hm ⟨false, ?_⟩
    dsimp only
    rw [hl, handing_raise, handing_finishCommand, hland]
    rfl
  case result =>
    refine goesTo_completion h (d := only .result) rfl rfl (hlm error) ⟨false, ?_⟩
    dsimp only
    rw [← landed_command s r rest error, hl]
    cases error <;> rfl
  case snapshot =>
    have hold : Oldest s r.purpose r rest ∧ snapshotPurpose r.purpose = true := by
      rcases h with h | h <;> exact ⟨⟨h.1, rfl, h.2.2⟩, by rw [h.2.1]; rfl⟩
    have hkept : (s.landed r rest error).command.snapshot = some run := by
      rw [landed_command, hrun]
    have hpath : (s.landed r rest error).path.nextSerial = s.path.nextSerial := by
      rw [landed_path]
    refine ⟨fun he hn => ?counted, fun he hn => ?last, fun he hn => ?header, fun he => ?failed⟩ <;>
      subst he
    case counted =>
      refine goesTo_completion hold.1 (d := snapshotPurpose) rfl hold.2 (hlm false) ⟨false, ?_⟩
      dsimp only
      rw [snapshotWritten_counted hkept hn, ← landed_command s r rest false, hl]
      rfl
    case last =>
      refine goesTo_completion_wanting hold.1 (d := snapshotPurpose) rfl hold.2 (hlm false)
        ⟨false, ?_⟩
      dsimp only
      rw [snapshotWritten_last hkept hn, ← landed_command s r rest false, ← hpath, hl]
      rfl
    case header =>
      refine goesTo_completion_wanting hold.1 (d := snapshotPurpose) rfl hold.2 (hlm false)
        ⟨false, ?_⟩
      dsimp only [answer, result]
      rw [snapshotWritten_header hkept hn, ← resultWrite_landed s r rest false,
        ← landed_command s r rest false, hl, handing_finishCommand]
      rfl
    case failed =>
      refine goesTo_completion_wanting hold.1 (d := snapshotPurpose) rfl hold.2 (hlm true)
        ⟨false, ?_⟩
      dsimp only [answer, result]
      rw [snapshotWritten_failed hkept, ← resultWrite_landed s r rest true,
        ← landed_command s r rest true, hl, handing_discard, handing_raise, handing_finishCommand]
      rfl

/-! ### The taking of a command (R170, R180) -/

theorem takeCommand_nothing {s : State} {code ticket : Nat}
    (h : s.mode ≠ .running ∨ s.command.phase ≠ .idle ∨ code = 0) : s.takeCommand code ticket = s := by
  unfold State.takeCommand
  split
  · rfl
  · rename_i hc
    rw [if_pos]
    rcases h with h | h | h
    · exact absurd (.inl h) hc
    · exact absurd (.inr h) hc
    · exact h

/-- A running part, its command unit in IDLE. -/
abbrev TakesCommand (s : State) : Prop :=
  s.mode = .running ∧ s.command.phase = .idle

theorem takeCommand_unknown {s : State} {code ticket : Nat} (h : TakesCommand s) (hc : 13 < code) :
    s.takeCommand code ticket = (s.latchCommand code ticket).finishCommand .unknownCommand code := by
  unfold State.takeCommand
  rw [if_neg (by simp [h.1, h.2]), if_neg (by omega), if_pos (by exact hc)]

theorem takeCommand_restart {s : State} {ticket : Nat} (h : TakesCommand s) :
    s.takeCommand 13 ticket = s.takeRestart ticket := by
  unfold State.takeCommand
  rw [if_neg (by simp [h.1, h.2])]
  rfl

theorem takeCommand_purge {s : State} {ticket : Nat} (h : TakesCommand s) :
    s.takeCommand 11 ticket = (s.latchCommand 11 ticket).purge.finishCommand .done s.slotsHeld := by
  unfold State.takeCommand
  rw [if_neg (by simp [h.1, h.2])]
  rfl

theorem takeCommand_arguments {s : State} {code ticket : Nat} (h : TakesCommand s) (h1 : 1 ≤ code)
    (h2 : code ≤ 12) (h3 : code ≠ 11) :
    s.takeCommand code ticket = (s.latchCommand code ticket).readArguments := by
  unfold State.takeCommand
  rw [if_neg (by simp [h.1, h.2]), if_neg (by omega), if_neg (by unfold restartCode; omega),
    if_neg (by exact h3), if_neg (by unfold restartCode; omega)]

theorem finish_restarting {s : State} (hm : s.mode = .restarting) (ht : Settled s) :
    s.finish = s := by
  unfold State.finish State.pump State.settle
  rw [if_neg (by simp [hm])]
  rw [if_neg (by simp [hm])]
  rw [← ht]

/-- Settles O43. -/
theorem commandIsTaken : Obligations.CommandIsTaken := by
  intro s code ticket hs n latched
  obtain ⟨hm, ht⟩ := hs
  have hsame := settled_handing ht
  have hexec : exec (.commandTaken code ticket) s =
    .next (s.takeCommand code.toNat ticket.toNat).finish := rfl
  refine ⟨fun h => ⟨_, hexec, ?nothing⟩, fun hi hn => ⟨_, hexec, ?unknown⟩, fun hi hn => ?purge,
    fun hi hn => ?asRestart, fun hi => ?restart, fun hi h1 h2 h3 => ⟨_, hexec, ?arguments⟩⟩
  case nothing =>
    rw [takeCommand_nothing (.inr h)]
    exact finish_nothing hm (by rw [ht]; rfl)
  case unknown =>
    rw [takeCommand_unknown ⟨hm, hi⟩ hn, hsame]
    exact finish_wanting (x := false) hm
  case purge =>
    rw [hexec, show code.toNat = 11 from hn]
    rfl
  case asRestart =>
    rw [hexec, show code.toNat = 13 from hn]
    rfl
  case restart =>
    show Host.Outcome.next (s.takeCommand 13 ticket.toNat).finish = _
    rw [takeCommand_restart ⟨hm, hi⟩, finish_restarting (s := s.takeRestart _) rfl ht,
      State.takeRestart]
    rfl
  case arguments =>
    rw [takeCommand_arguments ⟨hm, hi⟩ h1 h2 h3, hsame]
    exact finish_wanting (x := false) hm

/-! ### Snapshots (R176 to R178) -/

theorem argumentReturns_of {s : State} {code : Nat} {words : List Nat} {rest : List Flight}
    (h : ArgumentsRead s code words rest) : ∃ r, s.argumentReturns code = some (r, rest) ∧
      words = argumentWords (s.returned r.address r.access) := by
  obtain ⟨r, ⟨hf, hp, hi⟩, hph, hc, hw⟩ := h
  refine ⟨r, ?_, hw⟩
  simp [State.argumentReturns, hf, hp, hi, hph, hc]

theorem execSnapshot_taken {s : State} {words : List Nat} {rest : List Flight} {v : View}
    (h : ArgumentsRead s 12 words rest) (hv : (s.argued words rest).snapshotView words = .inr v) :
    exec .snapshot s = .next ((s.argued words rest).takeSnapshot v).finish := by
  obtain ⟨r, hr, hw⟩ := argumentReturns_of h
  subst hw
  show execSnapshot s = _
  unfold execSnapshot
  unfold State.argued at hv ⊢
  rw [hr]
  dsimp only
  rw [hv]

theorem execSnapshot_failed {s : State} {words : List Nat} {rest : List Flight} {a : Answer}
    (h : ArgumentsRead s 12 words rest) (ha : (s.argued words rest).snapshotView words = .inl a) :
    exec .snapshot s = .next a.finish.finish := by
  obtain ⟨r, hr, hw⟩ := argumentReturns_of h
  subst hw
  show execSnapshot s = _
  unfold execSnapshot
  unfold State.argued at ha
  rw [hr]
  dsimp only
  rw [ha]

theorem takeSnapshot_wanting (s : State) (v : View) :
    s.takeSnapshot v =
      State.wantAll
        { s with command := { s.command with
            phase := .writingSnapshot,
            snapshot := some { header := s.snapshotHeader v, entries := v.count,
                               writesLeft := linesOf v.entries } } }
        ((List.range (linesOf v.entries)).map fun k =>
          { purpose := .snapshotEntry, ignored := false, address := 0xFFF120 + 32 * k,
            access := wholeLine (((v.entries.drop (32 * k)).take 32).rightpad 32 0),
            orderPoint := s.path.nextSerial }) := by
  have hwrite : ∀ k, s.entryWrite v k =
      { purpose := .snapshotEntry, ignored := false, address := 0xFFF120 + 32 * k,
        access := wholeLine (((v.entries.drop (32 * k)).take 32).rightpad 32 0),
        orderPoint := s.path.nextSerial } := by
    intro k
    have haddr : snapshotAddress + 32 * (k + 1) = 0xFFF120 + 32 * k := by
      unfold snapshotAddress controlBase
      omega
    rw [State.entryWrite, haddr]
    rfl
  rw [State.takeSnapshot, funext hwrite]

theorem snapshotView_parcels {s : State} {words : List Nat} {w : WindowIndex} {e : Window}
    (h1 : argument words 1 = 2) (h2 : argument words 2 = w.val) (hw : s.window w = some e) :
    s.snapshotView words = .inr (s.parcelsView w e) := by
  rw [State.snapshotView, h1]
  simp only [h2, index?_val, hw]

/-- Settles O51. -/
theorem snapshotIsTaken : Obligations.SnapshotIsTaken := by
  intro s words rest w e hs h takes
  obtain ⟨hm, ht⟩ := hs
  have htakes : ∀ kind window count size entries tail,
      (s.argued words rest).snapshotView words =
        .inr { kind := kind, window := window, count := count, size := size, entries := entries,
               tail := tail } →
      takes kind window count size entries tail := by
    intro kind window count size entries tail hv
    refine ⟨_, execSnapshot_taken h hv, ?_⟩
    rw [argued_handing ht, takeSnapshot_wanting]
    exact finish_wanting (x := false) hm
  refine ⟨fun h1 => htakes _ _ _ _ _ _ ?keys, fun h1 h2 hw => htakes _ _ _ _ _ _ ?parcels,
    fun h1 => htakes _ _ _ _ _ _ ?contexts⟩
  case keys =>
    rw [State.snapshotView, h1]
    rfl
  case parcels => exact snapshotView_parcels h1 h2 hw
  case contexts =>
    rw [State.snapshotView, h1]
    rfl

end Sys2Proof.Machine
end

section
/-! PROOFS. The checks of the commands in their order, the first that fails answering. -/

namespace Sys2Proof.Machine

/-! ### The checks of DEFINE_WINDOW (R2, R3) -/

section DefineWindow

variable {words : List Nat} {w : WindowIndex}

/-- The arguments of DEFINE_WINDOW once the index, the count and the place are right. -/
theorem defineArguments_placed (hw : index? 8 (argument words 1) = some w)
    (hc : 1 ≤ argument words 3 ∧ argument words 3 ≤ 64) (hb : argument words 2 % 2048 = 0)
    (hp : argument words 2 + 2048 * argument words 3 ≤ 16773120) :
    (∀ d role c, directionOf? (argument words 4) = some d → roleOf? (argument words 5) = some role →
      index? 4 (argument words 6) = some c →
      defineArguments words =
        if (role = .notice ∧ d = .inbound) ∨ (role = .renewal ∧ d = .outbound) then .inl 6
        else
          .inr (w, { base := argument words 2, count := argument words 3, direction := d,
                     role := role, context := c,
                     parcels := List.replicate (argument words 3) ParcelRecord.blank })) ∧
    (directionOf? (argument words 4) = none ∨ roleOf? (argument words 5) = none ∨
      index? 4 (argument words 6) = none → defineArguments words = .inl 5) := by
  unfold defineArguments
  rw [hw]
  dsimp only
  rw [if_neg (by omega), if_neg (by omega), if_neg (by omega)]
  refine ⟨fun d role c hd hr hc => by rw [hd, hr, hc], fun h => ?_⟩
  split
  · rename_i hd hr hi
    rw [hd, hr, hi] at h
    simp at h
  · rfl

theorem defineArguments_index (h : 7 < argument words 1) : defineArguments words = .inl 1 := by
  rw [defineArguments, index?_none h]

theorem defineArguments_count (hw : index? 8 (argument words 1) = some w)
    (h : argument words 3 = 0 ∨ 64 < argument words 3) : defineArguments words = .inl 2 := by
  unfold defineArguments
  rw [hw]
  exact if_pos h

theorem defineArguments_base (hw : index? 8 (argument words 1) = some w)
    (hc : 1 ≤ argument words 3 ∧ argument words 3 ≤ 64) (h : argument words 2 % 2048 ≠ 0) :
    defineArguments words = .inl 3 := by
  unfold defineArguments
  rw [hw]
  dsimp only
  rw [if_neg (by omega), if_pos h]

theorem defineArguments_end (hw : index? 8 (argument words 1) = some w)
    (hc : 1 ≤ argument words 3 ∧ argument words 3 ≤ 64) (hb : argument words 2 % 2048 = 0)
    (h : 16773120 < argument words 2 + 2048 * argument words 3) :
    defineArguments words = .inl 4 := by
  unfold defineArguments
  rw [hw]
  dsimp only
  rw [if_neg (by omega), if_neg (by omega), if_pos h]

theorem directionOf_none {n : Nat} (h : n ≠ 1 ∧ n ≠ 2) : directionOf? n = none := by
  unfold directionOf?
  split
  · exact absurd rfl h.1
  · exact absurd rfl h.2
  · rfl

theorem roleOf_none {n : Nat} (h : n = 0 ∨ 3 < n) : roleOf? n = none := by
  unfold roleOf?
  split
  · omega
  · omega
  · omega
  · rfl

theorem role_of_code {role g : Role} (h : role.code = g.code) : role = g := by
  cases role <;> cases g <;> simp [Role.code] at h ⊢

/-- The checks of R2 passed: the entry that DEFINE_WINDOW would make valid. -/
theorem defineArguments_entry (hw : index? 8 (argument words 1) = some w)
    (hc : 1 ≤ argument words 3 ∧ argument words 3 ≤ 64) (hb : argument words 2 % 2048 = 0)
    (hp : argument words 2 + 2048 * argument words 3 ≤ 16773120) (h6 : argument words 6 ≤ 3)
    (h : (argument words 4 = 1 ∧ (argument words 5 = 1 ∨ argument words 5 = 2)) ∨
      (argument words 4 = 2 ∧ (argument words 5 = 1 ∨ argument words 5 = 3))) :
    ∃ e : Window, defineArguments words = .inr (w, e) ∧ e.base = argument words 2 ∧
      e.count = argument words 3 ∧ e.role.code = argument words 5 := by
  have hdefine := (defineArguments_placed hw hc hb hp).1
  have h6 := index?_some (show argument words 6 < 4 by omega)
  rcases h with ⟨h4, h5 | h5⟩ | ⟨h4, h5 | h5⟩ <;> rw [h4, h5] at hdefine <;> rw [h5] <;>
    exact ⟨_, hdefine _ _ _ rfl rfl h6, rfl, rfl, rfl⟩

variable {s : State} {e : Window}

theorem answerDefineWindow_bad {n : Nat} (h : defineArguments words = .inl n) :
    answerDefineWindow words s = .badArgument s n := by
  rw [answerDefineWindow, h]

theorem answerDefineWindow_refused {n : Nat} (h : defineArguments words = .inr (w, e))
    (hr : s.defineRefusal w e = some n) : answerDefineWindow words s = .refused s n := by
  rw [answerDefineWindow, h]
  simp only [hr]

theorem defineRefusal_provisioned (h : s.renewal.provisioned = false) :
    s.defineRefusal w e = some 1 := by
  simp [State.defineRefusal, h]

theorem defineRefusal_valid (hp : s.renewal.provisioned = true) (h : (s.window w).isSome = true) :
    s.defineRefusal w e = some 2 := by
  simp [State.defineRefusal, hp, h]

theorem defineRefusal_shares (hp : s.renewal.provisioned = true) (hw : s.window w = none)
    (h : s.anyWindow e.overlaps = true) : s.defineRefusal w e = some 3 := by
  simp [State.defineRefusal, hp, hw, h]

theorem defineRefusal_notice (hp : s.renewal.provisioned = true) (hw : s.window w = none)
    (ho : s.anyWindow e.overlaps = false) (hr : e.role = .notice)
    (h : s.anyWindow (fun f => decide (f.role = .notice)) = true) :
    s.defineRefusal w e = some 4 := by
  simp [State.defineRefusal, hp, hw, ho, hr, h]

theorem defineRefusal_renewal (hp : s.renewal.provisioned = true) (hw : s.window w = none)
    (ho : s.anyWindow e.overlaps = false) (hr : e.role = .renewal)
    (h : s.anyWindow (fun f => decide (f.role = .renewal)) = true) :
    s.defineRefusal w e = some 5 := by
  simp [State.defineRefusal, hp, hw, ho, hr, h]

end DefineWindow

/-! ### The checks of the other commands (R5, R17, R82, R84, R90, R95, R174, R176) -/

section Checks

variable {s : State} {words : List Nat} {w : WindowIndex} {e : Window} {q : ParcelRecord} {c : Ctx}

theorem answerClearWindow_index (h : 7 < argument words 1) :
    answerClearWindow words s = .badArgument s 1 := by
  rw [answerClearWindow, index?_none h]

theorem answerClearWindow_invalid (hi : index? 8 (argument words 1) = some w)
    (h : s.window w = none) : answerClearWindow words s = .refused s 1 := by
  rw [answerClearWindow, hi]
  simp only [h]

theorem answerClearWindow_used (hi : index? 8 (argument words 1) = some w)
    (hw : s.window w = some e) (h : e.parcels.any (fun q => decide (q.state ≠ .free)) = true) :
    answerClearWindow words s = .refused s 2 := by
  rw [answerClearWindow, hi]
  simp only [hw, h, if_true]

theorem parcelArgument_index (h : 7 < argument words 1) : s.parcelArgument words = .inl 1 := by
  rw [State.parcelArgument, index?_none h]

theorem parcelArgument_invalid (hi : index? 8 (argument words 1) = some w)
    (h : s.window w = none) : s.parcelArgument words = .inl 2 := by
  rw [State.parcelArgument, hi]
  simp only [h]

theorem parcelArgument_beyond (hi : index? 8 (argument words 1) = some w)
    (hw : s.window w = some e) (h : e.count ≤ argument words 2) :
    s.parcelArgument words = .inl 3 := by
  rw [State.parcelArgument, hi]
  simp only [hw, h, if_true]
  split <;> rfl

theorem parcelArgument_found (hi : index? 8 (argument words 1) = some w)
    (hw : s.window w = some e) (h : argument words 2 < e.count)
    (hq : s.parcel w (argument words 2) = some q) : s.parcelArgument words = .inr (w, e, q) := by
  rw [State.parcelArgument, hi]
  simp only [hw, hq, if_neg (Nat.not_le.mpr h)]

theorem answerSeal_bad {n : Nat} (h : s.parcelArgument words = .inl n) :
    answerSeal words s = .badArgument s n := by
  rw [answerSeal, h]

theorem answerSeal_length (hp : s.parcelArgument words = .inr (w, e, q))
    (h : argument words 3 = 0 ∨ 2016 < argument words 3) :
    answerSeal words s = .badArgument s 4 := by
  rw [answerSeal, hp]
  exact if_pos (by omega)

theorem answerSeal_refused (hp : s.parcelArgument words = .inr (w, e, q))
    (hl : 1 ≤ argument words 3 ∧ argument words 3 ≤ 2016)
    (h : q.state ≠ .filling ∨ q.owner ≠ some .controller) :
    answerSeal words s = .refused s q.state.code := by
  rw [answerSeal, hp]
  exact (if_neg (by omega)).trans (if_pos h)

theorem answerRelease_bad {n : Nat} (h : s.parcelArgument words = .inl n) :
    answerRelease words s = .badArgument s n := by
  rw [answerRelease, h]

theorem answerSetContext_context (h : 3 < argument words 1 % 256) :
    answerSetContext words s = .badArgument s 1 := by
  unfold answerSetContext
  dsimp only
  rw [index?_none h]

theorem answerSetContext_fallback (hc : argument words 1 % 256 ≤ 3)
    (h : 3 < argument words 1 / 256 % 256) (h' : argument words 1 / 256 % 256 ≠ 255) :
    answerSetContext words s = .badArgument s 2 := by
  have hf : fallbackOf? (argument words 1 / 256 % 256) = none := by
    rw [fallbackOf?, if_neg h', index?_none h]
  unfold answerSetContext
  dsimp only
  rw [index?_some (show argument words 1 % 256 < 4 by omega)]
  simp only [hf]

theorem answerSetGrouping_code (h : 2 < argument words 1) :
    answerSetGrouping words s = .badArgument s 1 := by
  have hg : groupingOf? (argument words 1) = none := by
    unfold groupingOf?
    split
    · omega
    · omega
    · omega
    · rfl
  rw [answerSetGrouping, hg]

theorem answerActivateNow_context (h : 3 < argument words 1) :
    answerActivateNow words s = .badArgument s 1 := by
  rw [answerActivateNow, index?_none h]

theorem answerActivateNow_nothing (hc : argument words 1 = c.val) (h : s.stagedHead c = none) :
    answerActivateNow words s = .refused s 1 := by
  rw [answerActivateNow, hc, index?_val]
  simp only [h]

theorem answerRetire_context (h : 3 < argument words 1) :
    answerRetire words s = .badArgument s 1 := by
  unfold answerRetire
  rw [index?_none h]

theorem answerRetire_generation (hc : argument words 1 = c.val)
    (h : argument words 2 = 0 ∨ 65535 < argument words 2) :
    answerRetire words s = .badArgument s 2 := by
  unfold answerRetire
  rw [hc, index?_val]
  exact if_pos h

theorem answerRetire_unknown (hc : argument words 1 = c.val)
    (h : 1 ≤ argument words 2 ∧ argument words 2 ≤ 65535)
    (hr : s.retirable c (argument words 2) = none) : answerRetire words s = .refused s 1 := by
  unfold answerRetire
  rw [hc, index?_val]
  dsimp only
  rw [if_neg (by omega), hr]

theorem snapshotView_kind (h : argument words 1 = 0 ∨ 3 < argument words 1) :
    s.snapshotView words = .inl (.badArgument s 1) := by
  unfold State.snapshotView
  split
  · omega
  · omega
  · omega
  · rfl

theorem snapshotView_index (h1 : argument words 1 = 2) (h : 7 < argument words 2) :
    s.snapshotView words = .inl (.badArgument s 2) := by
  rw [State.snapshotView, h1]
  simp only [index?_none h]

theorem snapshotView_invalid (h1 : argument words 1 = 2)
    (hi : index? 8 (argument words 2) = some w) (h : s.window w = none) :
    s.snapshotView words = .inl (.refused s 1) := by
  rw [State.snapshotView, h1]
  simp only [hi, h]

end Checks

/-- A snapshot whose check fails changes nothing but the result. -/
theorem endsCommand_noSnapshot {s : State} {words : List Nat} {rest : List Flight} {status : Status}
    {detail : Nat} (hs : Quiet s) (h : ArgumentsRead s 12 words rest)
    (ha : (s.argued words rest).snapshotView words =
      .inl { status := status, detail := detail, state := s.argued words rest }) :
    EndsCommand s .snapshot (s.ended words rest status detail) [] status detail [] := by
  refine ⟨_, execSnapshot_failed h ha, ?_⟩
  rw [Answer.finish, argued_handing hs.2, handing_finishCommand]
  exact finish_wanting (x := false) hs.1

/-- Settles O53. -/
theorem failedChecksAnswer : Obligations.FailedChecksAnswer := by
  intro s words rest c e q hs a answers window shares
  -- a window looked up by its number, before and after the arguments have been read
  have hindex : ∀ n e, window n = some e → ∃ w : WindowIndex, index? 8 n = some w ∧
      (s.argued words rest).window w = some e := fun n e h => Option.bind_eq_some_iff.mp h
  have hnone : ∀ n, n ≤ 7 → window n = none → ∃ w : WindowIndex, index? 8 n = some w ∧
      (s.argued words rest).window w = none := by
    intro n hn h
    have hi := index?_some (show n < 8 by omega)
    exact ⟨_, hi, show (some _).bind s.window = none from hi ▸ h⟩
  have hshares : ∀ f : Window, f.base = a 2 → f.count = a 3 →
      (s.argued words rest).anyWindow f.overlaps = s.anyWindow shares := by
    intro f hb hc
    have : f.overlaps = shares := funext fun g => by simp [Window.overlaps, shares, hb, hc]
    rw [this]
    rfl
  refine ⟨fun h => ?define, fun h => ?clear, fun h => ?context, fun h h1 => ?grouping,
    fun h => ?seals, fun h => ?release, fun h => ?activate, fun h => ?retire, fun h => ?snapshot⟩
  case define =>
    have hfails := fun n hd => endsCommand_failed (c := .defineWindow) (act := answerDefineWindow)
      hs h rfl (answerDefineWindow_bad (n := n) hd)
    refine ⟨fun h1 => hfails _ (defineArguments_index h1), fun h1 h3 => ?_, fun h1 h3 h3' => ?_⟩
    · exact hfails _ (defineArguments_count (index?_some (Nat.lt_succ_of_le h1)) h3)
    have hi := index?_some (Nat.lt_succ_of_le h1)
    refine ⟨fun h2 => hfails _ (defineArguments_base hi ⟨h3, h3'⟩ h2),
      fun h2 h4 => hfails _ (defineArguments_end hi ⟨h3, h3'⟩ h2 h4), fun h2 h4 => ?_⟩
    have hplaced := defineArguments_placed hi ⟨h3, h3'⟩ h2 h4
    refine ⟨fun h5 => hfails _ (hplaced.2 ?_), fun h6 h5 => hfails _ ?_, fun h6 h5 => ?_⟩
    · exact h5.imp directionOf_none (Or.imp roleOf_none fun h6 => index?_none h6)
    · have hc := index?_some (Nat.lt_succ_of_le h6)
      rcases h5 with ⟨h4, h5⟩ | ⟨h4, h5⟩
      · exact hplaced.1 .inbound .notice _ (congrArg directionOf? h4) (congrArg roleOf? h5) hc
      · exact hplaced.1 .outbound .renewal _ (congrArg directionOf? h4) (congrArg roleOf? h5) hc
    obtain ⟨f, hf, hbase, hcount, hrole⟩ := defineArguments_entry hi ⟨h3, h3'⟩ h2 h4 h6 h5
    have hrefused := fun n hr => endsCommand_failed (c := .defineWindow)
      (act := answerDefineWindow) hs h rfl (answerDefineWindow_refused (n := n) hf hr)
    have hany := hshares f hbase hcount
    have hval : (s.argued words rest).window ⟨a 1, Nat.lt_succ_of_le h1⟩ = window (a 1) :=
      show _ = (index? 8 (a 1)).bind s.window from by rw [hi]; rfl
    refine ⟨fun hp => hrefused _ (defineRefusal_provisioned hp),
      fun hp hw => hrefused _ (defineRefusal_valid hp (by rw [hval]; exact hw)),
      fun hp hw => ?_⟩
    have hw := hval.trans hw
    refine ⟨fun ho => hrefused _ (defineRefusal_shares hp hw (hany.trans ho)),
      fun ho hr hn => hrefused _ (defineRefusal_notice hp hw (hany.trans ho) ?_ hn),
      fun ho hr hn => hrefused _ (defineRefusal_renewal hp hw (hany.trans ho) ?_ hn)⟩
    · exact role_of_code (g := .notice) (hrole.trans hr)
    · exact role_of_code (g := .renewal) (hrole.trans hr)
  case clear =>
    have hfails := fun status detail ha => endsCommand_failed (c := .clearWindow)
      (act := answerClearWindow) (status := status) (detail := detail) hs h rfl ha
    refine ⟨fun h1 => hfails _ _ (answerClearWindow_index h1), fun h1 hw => ?_, fun hw hq => ?_⟩
    · obtain ⟨w, hi, hw⟩ := hnone _ h1 hw
      exact hfails _ _ (answerClearWindow_invalid hi hw)
    · obtain ⟨w, hi, hw⟩ := hindex _ _ hw
      exact hfails _ _ (answerClearWindow_used hi hw hq)
  case context =>
    have hfails := fun detail ha => endsCommand_failed (c := .setContext)
      (act := answerSetContext) (status := .badArgument) (detail := detail) hs h rfl ha
    exact ⟨fun h1 => hfails _ (answerSetContext_context h1),
      fun h1 h2 h3 => hfails _ (answerSetContext_fallback h1 h2 h3)⟩
  case grouping =>
    exact endsCommand_failed (act := answerSetGrouping) hs h rfl (answerSetGrouping_code h1)
  case seals =>
    have hfails := fun status detail ha => endsCommand_failed (c := .sealParcel)
      (act := answerSeal) (status := status) (detail := detail) hs h rfl ha
    refine ⟨fun h1 => hfails _ _ (answerSeal_bad (parcelArgument_index h1)), fun h1 hw => ?_,
      fun hw h2 => ?_, fun hw h2 hq => ?_⟩
    · obtain ⟨w, hi, hw⟩ := hnone _ h1 hw
      exact hfails _ _ (answerSeal_bad (parcelArgument_invalid hi hw))
    · obtain ⟨w, hi, hw⟩ := hindex _ _ hw
      exact hfails _ _ (answerSeal_bad (parcelArgument_beyond hi hw h2))
    · obtain ⟨w, hi, hw⟩ := hindex _ _ hw
      have hparcel : (s.argued words rest).parcel w (argument words 2) = some q := by
        rw [State.parcel, hw]
        exact hq
      have hfound := parcelArgument_found hi hw h2 hparcel
      exact ⟨fun h3 => hfails _ _ (answerSeal_length hfound h3),
        fun h3 h3' hr => hfails _ _ (answerSeal_refused hfound ⟨h3, h3'⟩ hr)⟩
  case release =>
    have hfails := fun detail ha => endsCommand_failed (c := .release)
      (act := answerRelease) (status := .badArgument) (detail := detail) hs h rfl ha
    refine ⟨fun h1 => hfails _ (answerRelease_bad (parcelArgument_index h1)), fun h1 hw => ?_,
      fun hw h2 => ?_⟩
    · obtain ⟨w, hi, hw⟩ := hnone _ h1 hw
      exact hfails _ (answerRelease_bad (parcelArgument_invalid hi hw))
    · obtain ⟨w, hi, hw⟩ := hindex _ _ hw
      exact hfails _ (answerRelease_bad (parcelArgument_beyond hi hw h2))
  case activate =>
    have hfails := fun status detail ha => endsCommand_failed (c := .activateNow)
      (act := answerActivateNow) (status := status) (detail := detail) hs h rfl ha
    exact ⟨fun h1 => hfails _ _ (answerActivateNow_context h1),
      fun h1 h2 => hfails _ _ (answerActivateNow_nothing h1 h2)⟩
  case retire =>
    have hfails := fun status detail ha => endsCommand_failed (c := .retire)
      (act := answerRetire) (status := status) (detail := detail) hs h rfl ha
    exact ⟨fun h1 => hfails _ _ (answerRetire_context h1), fun h1 =>
      ⟨fun h2 => hfails _ _ (answerRetire_generation h1 h2),
        fun h2 h2' hr => hfails _ _ (answerRetire_unknown h1 ⟨h2, h2'⟩ hr)⟩⟩
  case snapshot =>
    refine ⟨fun h1 => endsCommand_noSnapshot hs h (snapshotView_kind h1),
      fun h1 h2 => endsCommand_noSnapshot hs h (snapshotView_index h1 h2), fun h1 h2 hw => ?_⟩
    obtain ⟨w, hi, hw⟩ := hnone _ h2 hw
    exact endsCommand_noSnapshot hs h (snapshotView_invalid h1 hi hw)

end Sys2Proof.Machine
end

section
/-! PROOFS. How a request is cut into line pieces, and the requests that wait. -/

namespace Sys2Proof.Machine

/-! ### Line pieces (R43) -/

section Cutting

variable (r : Request)

/-- Where the cuts of a request fall: its first byte, each line boundary inside it, and
its end. -/
def Request.cutAt (k : Nat) : Nat :=
  min (r.offset + r.access.count) (max r.offset (32 * (r.offset / 32 + k)))

theorem cutAt_zero : Request.cutAt r 0 = r.offset := by
  unfold Request.cutAt
  omega

theorem cutAt_mono {j k : Nat} (h : j ≤ k) : Request.cutAt r j ≤ Request.cutAt r k := by
  unfold Request.cutAt
  omega

theorem cutAt_bounds (k : Nat) :
    r.offset ≤ Request.cutAt r k ∧ Request.cutAt r k ≤ r.offset + r.access.count := by
  unfold Request.cutAt
  omega

/-- The last cut is the end of the request. -/
theorem cutAt_pieceCount : Request.cutAt r (Request.pieceCount r) = r.offset + r.access.count := by
  unfold Request.cutAt Request.pieceCount
  omega

variable {r} {k : Nat}

/-- Each line piece lies between two cuts, inside one line. -/
theorem cutAt_line (h : k < Request.pieceCount r) (hn : 1 ≤ r.access.count) :
    Request.cutAt r k < Request.cutAt r (k + 1) ∧
      Request.cutAt r k % 32 + (Request.cutAt r (k + 1) - Request.cutAt r k) ≤ 32 := by
  unfold Request.pieceCount at h
  unfold Request.cutAt
  omega

theorem part_count (x : Access) (first length : Nat) (h : first + length ≤ x.count) :
    (Access.part x first length).count = length := by
  cases x with
  | read n => rfl
  | write bytes =>
    simp only [Access.count] at h
    simp only [Access.part, Access.count, List.length_take, List.length_drop]
    omega

theorem part_isWrite (x : Access) (first length : Nat) :
    (Access.part x first length).isWrite = x.isWrite := by
  cases x <;> rfl

theorem part_bytes (x : Access) (first length : Nat) :
    Access.bytes (Access.part x first length) =
      ((Access.bytes x).drop first).take length := by
  cases x with
  | read n => simp [Access.part, Access.bytes]
  | write bytes => rfl

/-- A line piece by the cuts around it. -/
theorem piece_eq (h : k < Request.pieceCount r) :
    Request.piece r k =
      { address := Request.cutAt r k % memorySize,
        access := Access.part r.access (Request.cutAt r k - r.offset)
          (Request.cutAt r (k + 1) - Request.cutAt r k) } := by
  have hfirst : max r.offset (32 * (r.offset / 32 + k)) = Request.cutAt r k := by
    unfold Request.pieceCount at h
    unfold Request.cutAt
    omega
  have hlast : min (r.offset + r.access.count) (32 * (r.offset / 32 + k + 1)) =
      Request.cutAt r (k + 1) := by
    unfold Request.cutAt
    omega
  simp only [Request.piece, hfirst, hlast]

theorem piece_count (h : k < Request.pieceCount r) :
    (Request.piece r k).access.count = Request.cutAt r (k + 1) - Request.cutAt r k := by
  rw [piece_eq h]
  refine part_count _ _ _ ?_
  have := cutAt_bounds r k
  have := cutAt_bounds r (k + 1)
  have := cutAt_mono r (show k ≤ k + 1 by omega)
  omega

theorem pieces_getElem {c : Cut} (h : (Request.pieces r)[k]? = some c) :
    k < Request.pieceCount r ∧ c = Request.piece r k := by
  simp only [Request.pieces, List.getElem?_map, Option.map_eq_some_iff] at h
  obtain ⟨j, hj, rfl⟩ := h
  obtain ⟨hk, rfl⟩ := List.getElem?_eq_some_iff.mp hj
  rw [List.length_range] at hk
  exact ⟨hk, by rw [List.getElem_range]⟩

theorem pieces_take (h : k ≤ Request.pieceCount r) :
    (Request.pieces r).take k = (List.range k).map (Request.piece r) := by
  rw [Request.pieces, ← List.map_take, List.take_range, Nat.min_eq_left h]

/-- The pieces before a cut name the bytes before it. -/
theorem pieces_sum : ∀ k, k ≤ Request.pieceCount r →
    (((Request.pieces r).take k).map fun d => d.access.count).sum =
      Request.cutAt r k - r.offset
  | 0, _ => by simp [cutAt_zero]
  | k + 1, h => by
    have ih := pieces_sum k (Nat.le_of_succ_le h)
    rw [pieces_take (Nat.le_of_succ_le h)] at ih
    rw [pieces_take h, List.range_succ, List.map_append, List.map_append, List.sum_append, ih]
    simp only [List.map_cons, List.map_nil, List.sum_cons, List.sum_nil, piece_count h]
    have := cutAt_bounds r k
    have := cutAt_mono r (show k ≤ k + 1 by omega)
    omega

theorem pieces_bytes : ∀ k, k ≤ Request.pieceCount r →
    (((Request.pieces r).take k).map fun d => Access.bytes d.access).flatten =
      (Access.bytes r.access).take (Request.cutAt r k - r.offset)
  | 0, _ => by simp [cutAt_zero]
  | k + 1, h => by
    have ih := pieces_bytes k (Nat.le_of_succ_le h)
    have hlen : Request.cutAt r (k + 1) - r.offset = (Request.cutAt r k - r.offset) +
        (Request.cutAt r (k + 1) - Request.cutAt r k) := by
      have := cutAt_bounds r k
      have := cutAt_mono r (show k ≤ k + 1 by omega)
      omega
    rw [pieces_take (Nat.le_of_succ_le h)] at ih
    rw [pieces_take h, List.range_succ, List.map_append, List.map_append, List.flatten_append, ih,
      hlen, List.take_add]
    simp [piece_eq h, part_bytes]

end Cutting

theorem wellFormed_count {r : Request} (h : r.wellFormed = true) :
    1 ≤ r.access.count ∧ r.access.count ≤ 256 := by
  simpa [Request.wellFormed] using h

theorem pieceCount_pos {r : Request} (h : r.wellFormed = true) : 1 ≤ Request.pieceCount r := by
  have := (wellFormed_count h).1
  unfold Request.pieceCount
  omega

theorem pieceCount_le {r : Request} (h : r.wellFormed = true) : Request.pieceCount r ≤ 9 := by
  have := (wellFormed_count h).2
  unfold Request.pieceCount
  omega

/-- Settles O17. -/
theorem requestsAreCut : Obligations.RequestsAreCut := by
  intro r hr _
  have hn := wellFormed_count hr
  have htake : (Request.pieces r).take (Request.pieceCount r) = Request.pieces r :=
    List.take_of_length_le (pieces_length r).le
  refine ⟨pieceCount_pos hr, pieceCount_le hr, pieces_length r, fun k c hc => ?piece, ?counts,
    fun bytes hb => ?bytes⟩
  case piece =>
    obtain ⟨hk, rfl⟩ := pieces_getElem hc
    have hline := cutAt_line hk hn.1
    have hbound := cutAt_bounds r k
    rw [pieces_sum k hk.le, piece_count hk, piece_eq hk]
    refine ⟨by omega, ?_, part_isWrite _ _ _, ?_⟩
    · show Request.cutAt r k % memorySize % 32 + _ ≤ 32
      unfold memorySize
      omega
    · show Request.cutAt r k % memorySize = _
      rw [Nat.add_sub_cancel' hbound.1]
      rfl
  case counts =>
    have hsum := pieces_sum (r := r) _ (Nat.le_refl _)
    rw [htake, cutAt_pieceCount] at hsum
    omega
  case bytes =>
    have hflat := pieces_bytes (r := r) _ (Nat.le_refl _)
    rw [htake, cutAt_pieceCount, Nat.add_sub_cancel_left, hb] at hflat
    rw [hflat]
    exact List.take_length

/-! ### Requests that wait on the port (R43, R46, R55) -/

theorem takeWaiting_stuck {s : State} (h : ∀ x ∈ s.path.port.head?, s.takes x = false) :
    s.takeWaiting = s := by
  unfold State.takeWaiting
  cases hp : s.path.port with
  | nil => rfl
  | cons x rest =>
    have hx := h x (by rw [hp]; rfl)
    unfold List.length State.takeWaitingFuel
    rw [hp]
    simp [hx]

theorem takes_false {s : State} {r : Request}
    (h : s.path.hold = true ∨ s.mode ≠ .running ∨
      Request.refusedWhole r = none ∧ 32 < s.passingCount + Request.pieceCount r ∨
      Request.isControl r = true ∧ (s.fault.postFence = true ∨
        ∃ x ∈ s.path.outstanding, Request.isControl x.request = true)) :
    s.takes r = false := by
  unfold State.takes
  rcases h with h | h | ⟨hw, hn⟩ | ⟨hc, hf⟩
  · simp [h]
  · simp [h]
  · have : s.roomFor r = false := by
      simp only [State.roomFor, hw, Option.isSome_none, Bool.false_or, decide_eq_false_iff_not]
      omega
    simp [this]
  · have : s.controlFree = false := by
      rw [State.controlFree]
      rcases hf with hf | ⟨x, hx, hxc⟩
      · simp [hf]
      · have : (s.path.outstanding.all fun t => !Request.isControl t.request) = false :=
          List.all_eq_false.mpr ⟨x, hx, by simp [hxc]⟩
        simp [this]
    simp [this, hc]

theorem exec_upstreamRequest {r : Request} (h : r.wellFormed = true) (s : State) :
    exec (.upstreamRequest r) s = .next (s.arrive r) :=
  if_pos h

/-- Settles O19. -/
theorem requestsWait : Obligations.RequestsWait := by
  intro s r hr h
  rw [exec_upstreamRequest hr, State.arrive, takeWaiting_stuck]
  intro x hx
  refine takes_false ?_
  rcases h with h | h | ⟨hp, hw, hn⟩ | ⟨hp, hc, hf⟩
  · exact .inl h
  · exact .inr (.inl h)
  all_goals
    obtain rfl : r = x := by simpa [hp] using hx
  · exact .inr (.inr (.inl ⟨hw, hn⟩))
  · exact .inr (.inr (.inr ⟨hc, hf⟩))

/-! ### What does not touch how a step ends -/

/-- s with its port, its passing stream, its unanswered requests and its responses
replaced: nothing that the end of a step reads. -/
def State.fronted (s : State) (port : List Request) (passing : List Piece)
    (outstanding : List Taken) (serial : Nat) (responses : List Response) : State :=
  { s with
    path := { s.path with
      port := port, passing := passing, outstanding := outstanding, nextSerial := serial },
    responses := responses }

section Fronted

variable {b t : State} {port : List Request} {passing : List Piece} {outstanding : List Taken}
  {serial : Nat} {responses : List Response}

theorem fronted_notice :
    SameNotice (b.fronted port passing outstanding serial responses) b :=
  ⟨⟨rfl, rfl, rfl, rfl⟩, rfl⟩

theorem foldl_takeEvent_notice : ∀ (events : List FaultEvent) {a b : State}, SameNotice a b →
    SameNotice (events.foldl State.takeEvent a) (events.foldl State.takeEvent b)
  | [], _, _, h => h
  | e :: rest, _, _, h => foldl_takeEvent_notice rest (takeEvent_notice h e)

theorem afterRefusals_notice (x : Fin 9) (y : RefusalReason) (z : Option Nat) {a b : State}
    (h : SameNotice a b) : ∀ n, SameNotice (a.afterRefusals x y z n) (b.afterRefusals x y z n)
  | 0 => h
  | n + 1 => takeRefusal_same (afterRefusals_notice x y z h n) x y z

/-- A step that ends keeps ending so when only such parts differ. -/
theorem endsAs_fronted {new : List InternalRequest} {events : List FaultEvent}
    (h : EndsAs b t new events) :
    EndsAs (b.fronted port passing outstanding serial responses)
      (t.fronted port passing outstanding serial responses) new events := by
  intro hq
  have hsame := foldl_takeEvent_notice events
    (fronted_notice (b := b) (port := port) (passing := passing) (outstanding := outstanding)
      (serial := serial) (responses := responses))
  obtain ⟨ht, ⟨hp, more, hr, ho⟩, hf, hg⟩ := h fun k hk =>
    (noticeCalled_congr (foldl_takeEvent_notice _ fronted_notice)).symm.trans (hq k hk)
  refine ⟨?_, ⟨?_, more, hr, ho⟩, ?_, ?_⟩
  · unfold State.fronted
    conv_lhs => rw [ht]
  · show State.path (t.fronted ..) = _
    unfold State.fronted
    conv_lhs => rw [hp]
  · show t.fault = _
    rw [hsame.1.1]
    exact hf
  · show t.composer = _
    rw [hsame.1.2.2.2]
    exact hg

theorem refused_fronted {x : Fin 9} {n : Nat} {y : RefusalReason} {z : Option Nat}
    (h : EndsRefused b t x n y z) :
    EndsRefused (b.fronted port passing outstanding serial responses)
      (t.fronted port passing outstanding serial responses) x n y z := by
  intro hq
  obtain ⟨ht, ⟨hp, more, hr, ho⟩, hR⟩ := h fun k hk =>
    (noticeCalled_congr (afterRefusals_notice x y z fronted_notice k)).symm.trans (hq k hk)
  refine ⟨?_, ⟨?_, more, hr, ho⟩, hR⟩
  · unfold State.fronted
    conv_lhs => rw [ht]
  · unfold State.fronted
    conv_lhs => rw [hp]

end Fronted

/-- A settled state has nothing to hand on: its end only issues requests. -/
theorem finish_settled {t : State} (h : Settled t) : t.finish = t.pump := by
  have hsettle : t.settle = { t with transit := Transit.empty } := by
    have hdrain : t.drainReports = t := by
      unfold State.drainReports
      rw [show t.transit.reports = [] by rw [h]; rfl]
      show { t with transit := { t.transit with reports := [] } } = t
      rw [show ({ t.transit with reports := [] } : Transit) = t.transit by rw [h]; rfl]
    have hexamine : t.runExamination = t := by
      unfold State.runExamination
      rw [if_neg (by rw [h]; decide)]
    unfold State.settle
    split <;> simp only [hdrain, hexamine]
  rw [State.finish, hsettle, ← h]

/-- A second end of a step of refusals adds no more than a counters write. -/
theorem refused_finish {b t : State} {x : Fin 9} {n : Nat} {y : RefusalReason} {z : Option Nat}
    (h0 : EndsRefused b t x n y z) : EndsRefused b t.finish x n y z := by
  intro hq
  obtain ⟨ht, ⟨hp, more, hr, hc⟩, hR⟩ := h0 hq
  rw [finish_settled (by rw [ht])]
  obtain ⟨a1, a2, a5, more', a3, a4⟩ := pump_requests t
  refine ⟨?_, ⟨?_, more ++ more', ?_, onlyCounters_append hc a4⟩, refused_fault hR a5⟩
  · generalize t.pump = u at *
    rw [a1]
    generalize u.path = up at *
    generalize u.fault = uf at *
    rw [ht]
  · generalize t.pump = u at *
    rw [a2]
    generalize u.path.internal = i1
    generalize u.path.unissued = i2
    rw [hp]
  · rw [a3, hr]
    simp

/-! ### Requests answered as they are taken -/

/-- The one unanswered request, with all its pieces ended and no receipt: its response is
returned, and that is the end of the step. -/
theorem answer_one {t : State} {x : Taken} (h : t.path.outstanding = [x])
    (hd : x.parts.all Part.done = true) (hr : x.isReceipt = false) :
    t.answer = (t.fronted t.path.port t.path.passing [] t.path.nextSerial
      (t.responses ++ [x.response])).finish :=
  answer_last h hd hr

theorem isReceipt_write {x : Taken} (h : x.request.access.isWrite = true) : x.isReceipt = false := by
  simp [Taken.isReceipt, h]

/-- Where no piece is served there is no receipt. -/
theorem isReceipt_notOk {x : Taken} (h : ∀ q ∈ x.parts, q.ok = false) : x.isReceipt = false := by
  have : (x.parts.zipIdx.any fun q => q.1.ok && Request.coversPost x.request q.2) = false := by
    refine List.any_eq_false.mpr fun q hq => ?_
    rw [h q.1 (List.fst_mem_of_mem_zipIdx hq)]
    simp
  simp [Taken.isReceipt, this]

/-- A request taken at once, none of whose pieces waits, no other being unanswered. -/
theorem arrive_answered {s b : State} {r : Request} {x : Taken} {events : List FaultEvent}
    (hm : s.mode = .running) (hbm : b.mode = .running) (hh : s.path.hold = false)
    (hp : s.path.port = []) (hr : s.roomFor r = true)
    (hc : Request.isControl r = true → s.controlFree = true)
    (ht : ∃ examine, s.takeRequest r = b.handing events examine)
    (ho : b.path.outstanding = [x]) (hd : x.parts.all Part.done = true)
    (hx : x.isReceipt = false) :
    EndsAs (b.fronted b.path.port b.path.passing [] b.path.nextSerial (b.responses ++ [x.response]))
      (s.arrive r) [] events := by
  intro hq
  obtain ⟨examine, ht⟩ := ht
  have h1 : EndsAs b (s.takeRequest r).finish [] events := ht ▸ finish_handing hbm
  obtain ⟨e1, ⟨e2, -⟩, -⟩ := h1 fun k hk =>
    (noticeCalled_congr (foldl_takeEvent_notice _ fronted_notice)).symm.trans (hq k hk)
  have hport : (s.takeRequest r).finish.path.port = b.path.port := by rw [e2]
  have hpassing : (s.takeRequest r).finish.path.passing = b.path.passing := by rw [e2]
  have hserial : (s.takeRequest r).finish.path.nextSerial = b.path.nextSerial := by rw [e2]
  have hresp : (s.takeRequest r).finish.responses = b.responses := by rw [e1]
  rw [arrive_ready hm hh hp hr hc, answer_one (x := x) (by rw [e2]; exact ho) hd hx, hport,
    hpassing, hserial, hresp]
  exact endsAs_finish hbm (endsAs_fronted h1) hq

/-- The same where its pieces are refused alike. -/
theorem arrive_refused {s b : State} {r : Request} {x : Taken} {n : Nat} {y : Fin 9}
    {reason : RefusalReason} {parcel : Option Nat}
    (hm : s.mode = .running) (hbm : b.mode = .running) (hh : s.path.hold = false)
    (hp : s.path.port = []) (hr : s.roomFor r = true)
    (hc : Request.isControl r = true → s.controlFree = true) (h1 : 1 ≤ n) (h2 : n < 65535)
    (ht : s.takeRequest r = { b with
      transit := { reports := List.replicate n (.refusal y reason parcel),
                   examine := (s.takeRequest r).transit.examine } })
    (ho : b.path.outstanding = [x]) (hd : x.parts.all Part.done = true)
    (hx : x.isReceipt = false) :
    EndsRefused
      (b.fronted b.path.port b.path.passing [] b.path.nextSerial (b.responses ++ [x.response]))
      (s.arrive r) y n reason parcel := by
  intro hq
  have h1 := finish_refusals hbm h1 h2 ht
  obtain ⟨e1, ⟨e2, -⟩, -⟩ := h1 fun k hk =>
    (noticeCalled_congr (afterRefusals_notice _ _ _ fronted_notice k)).symm.trans (hq k hk)
  have hport : (s.takeRequest r).finish.path.port = b.path.port := by rw [e2]
  have hpassing : (s.takeRequest r).finish.path.passing = b.path.passing := by rw [e2]
  have hserial : (s.takeRequest r).finish.path.nextSerial = b.path.nextSerial := by rw [e2]
  have hresp : (s.takeRequest r).finish.responses = b.responses := by rw [e1]
  rw [arrive_ready hm hh hp hr hc, answer_one (x := x) (by rw [e2]; exact ho) hd hx, hport,
    hpassing, hserial, hresp]
  exact refused_finish (refused_fronted h1) hq

/-! ### Requests refused (R41, R42, R48) -/

/-- s with a request taken whose pieces have these ends. -/
def State.withTaken (s : State) (r : Request) (parts : List Part) : State :=
  { s with path := { s.path with
      outstanding := s.path.outstanding ++ [{ request := r, parts := parts }] } }

/-- s with refusals of one kind to report. -/
def State.refusing (s : State) (n : Nat) (x : Fin 9) (reason : RefusalReason)
    (parcel : Option Nat) : State :=
  { s with transit := { s.transit with
      reports := s.transit.reports ++ List.replicate n (.refusal x reason parcel) } }

theorem refusing_succ (s : State) (n : Nat) (x : Fin 9) (reason : RefusalReason)
    (parcel : Option Nat) :
    (s.reportRefusal x reason parcel).refusing n x reason parcel =
      s.refusing (n + 1) x reason parcel := by
  simp [State.refusing, State.reportRefusal, List.replicate_succ]

theorem refuseWhole_eq (reason : RefusalReason) : ∀ (cuts : List Cut) (s : State),
    s.refuseWhole reason cuts =
      (s.refusing cuts.length 8 reason none, cuts.map fun c => .notServed c.access.count)
  | [], s => by simp [State.refuseWhole, State.refusing]
  | c :: rest, s => by
    have ih := congrArg Prod.fst (refuseWhole_eq reason rest (s.reportRefusal 8 reason none))
    refine Prod.ext ?_ rfl
    exact ih.trans (refusing_succ s rest.length 8 reason none)

theorem notServed_data : ∀ cuts : List Cut,
    ((cuts.map fun c => Part.notServed c.access.count).map Part.data).flatten =
      List.replicate (cuts.map fun c => c.access.count).sum 0
  | [] => rfl
  | c :: rest => by
    rw [List.map_cons, List.map_cons, List.flatten_cons, notServed_data rest, List.map_cons,
      List.sum_cons, List.replicate_add]
    rfl

/-- The request is answered with an error, and with zeros when it is a read. -/
theorem response_refused {r : Request} {cuts : List Cut} (h : cuts ≠ [])
    (hn : (cuts.map fun c => c.access.count).sum = r.access.count) :
    Taken.response { request := r, parts := cuts.map fun c => .notServed c.access.count } =
      { request := r, ok := false, data := Request.zeros r } := by
  have hok : (cuts.map fun c => Part.notServed c.access.count).all Part.ok = false := by
    cases cuts with
    | nil => exact absurd rfl h
    | cons c rest => rfl
  rw [Taken.response, notServed_data, hn, hok]
  rfl

theorem pieces_ne_nil {r : Request} (h : r.wellFormed = true) : Request.pieces r ≠ [] :=
  List.ne_nil_of_length_pos (by rw [pieces_length]; exact pieceCount_pos h)

theorem pieces_total (r : Request) :
    ((Request.pieces r).map fun c => c.access.count).sum = r.access.count := by
  have hsum := pieces_sum (r := r) _ (Nat.le_refl _)
  rw [List.take_of_length_le (pieces_length r).le, cutAt_pieceCount] at hsum
  omega

/-- A request all of whose pieces are refused alike is answered with an error. -/
theorem arrive_allRefused {s : State} {r : Request} {x : Fin 9} {reason : RefusalReason}
    {parcel : Option Nat} (hs : Quiet s) (hwf : r.wellFormed = true) (hh : s.path.hold = false)
    (hp : s.path.port = []) (hr : s.roomFor r = true)
    (hc : Request.isControl r = true → s.controlFree = true) (ho : s.path.outstanding = [])
    (ht : s.takeRequest r = (s.refusing (Request.pieceCount r) x reason parcel).withTaken r
      ((Request.pieces r).map fun c => .notServed c.access.count)) :
    EndsRefused (s.answered r false (Request.zeros r)) (s.arrive r) x (Request.pieceCount r)
      reason parcel := by
  have hle := pieceCount_le hwf
  have hends := arrive_refused (b := s.withTaken r
      ((Request.pieces r).map fun c => .notServed c.access.count))
    (x := { request := r, parts := (Request.pieces r).map fun c => .notServed c.access.count })
    hs.1 hs.1 hh hp hr hc (pieceCount_pos hwf) (by omega)
    (by rw [ht, State.refusing, hs.2]; rfl) (by rw [State.withTaken, ho]; rfl) (by simp [Part.done])
    (isReceipt_notOk (by simp [Part.ok]))
  rw [response_refused (pieces_ne_nil hwf) (pieces_total r)] at hends
  unfold State.fronted State.withTaken at hends
  dsimp only at hends
  rw [← ho] at hends
  exact hends

theorem refusedWhole_outOfRange {r : Request} (h : 33554432 ≤ r.offset) :
    Request.refusedWhole r = some .outOfRange := by
  have : aliasOf r.offset = none := by
    rw [aliasOf, if_neg (by omega), if_neg (by omega)]
  simp [Request.refusedWhole, this]

theorem aliasOf_isSome {n : Nat} (h : n < 33554432) : (aliasOf n).isSome = true := by
  unfold aliasOf
  split
  · rfl
  · rfl

theorem refusedWhole_crosses {r : Request} (h : r.offset < 33554432)
    (hx : r.offset / 2048 ≠ (r.offset + r.access.count - 1) / 2048) :
    Request.refusedWhole r = some .crossesBoundary := by
  have := aliasOf_isSome h
  unfold Request.refusedWhole
  rw [if_neg (by simpa using Option.isSome_iff_ne_none.mp this), if_pos (by simpa [Request.crosses] using hx)]

theorem isControl_refused {r : Request} {reason : RefusalReason}
    (h : Request.refusedWhole r = some reason) : Request.isControl r = false := by
  simp [Request.isControl, h]

theorem takeRequest_refused {r : Request} {reason : RefusalReason}
    (h : Request.refusedWhole r = some reason) (s : State) :
    s.takeRequest r = (s.refusing (Request.pieceCount r) 8 reason none).withTaken r
      ((Request.pieces r).map fun c => .notServed c.access.count) := by
  rw [← pieces_length]
  unfold State.takeRequest
  rw [h]
  simp only [refuseWhole_eq]
  rfl

/-- A request refused whole, for whichever reason. -/
theorem arrive_refusedWhole {s : State} {r : Request} {reason : RefusalReason} (hs : Quiet s)
    (hh : s.path.hold = false) (hp : s.path.port = []) (ho : s.path.outstanding = [])
    (hwf : r.wellFormed = true) (h : Request.refusedWhole r = some reason) :
    EndsRefused (s.answered r false (Request.zeros r)) (s.arrive r) 8 (Request.pieceCount r)
      reason none :=
  arrive_allRefused hs hwf hh hp (by simp [State.roomFor, h])
    (fun hc => absurd (hc.symm.trans (isControl_refused h)) (by decide)) ho (takeRequest_refused h s)

/-- Settles O18. -/
theorem requestsRefusedWhole : Obligations.RequestsRefusedWhole := by
  intro s r reason hs hh hp ho hwf h
  refine ⟨_, exec_upstreamRequest hwf s, arrive_refusedWhole hs hh hp ho hwf ?_⟩
  rcases h with ⟨h, rfl⟩ | ⟨h, hx, rfl⟩
  · exact refusedWhole_outOfRange h
  · exact refusedWhole_crosses h hx

end Sys2Proof.Machine
end

section
/-! PROOFS. Requests whose pieces pass as they came: open memory and the control window. -/

namespace Sys2Proof.Machine

/-! ### Pieces placed as they came (R43, R49) -/

/-- s with the pieces placed in the passing stream, with no cipher. -/
def State.placing (s : State) (cuts : List Cut) : State :=
  { s with path := { s.path with
      passing := s.path.passing ++ s.asPieces cuts,
      nextSerial := s.path.nextSerial + cuts.length } }

theorem asPieces_length (s : State) (cuts : List Cut) : (s.asPieces cuts).length = cuts.length := by
  simp [State.asPieces]

theorem asPieces_cons (s : State) (c : Cut) (rest : List Cut) :
    s.asPieces (c :: rest) =
      { serial := s.path.nextSerial, address := c.address, access := c.access, keystream := [] } ::
        (s.placing [c]).asPieces rest := by
  simp only [State.asPieces, List.zipIdx_cons, List.map_cons, List.zipIdx_succ, List.map_map,
    Nat.add_zero, Nat.zero_add]
  congr 1
  refine List.map_congr_left fun x _ => ?_
  simp [State.placing, Nat.add_comm, Nat.add_left_comm]

theorem placing_cons (s : State) (c : Cut) (rest : List Cut) :
    (s.placing [c]).placing rest = s.placing (c :: rest) := by
  have h1 : s.asPieces [c] =
      [{ serial := s.path.nextSerial, address := c.address, access := c.access,
         keystream := [] }] := rfl
  have h2 := asPieces_cons s c rest
  unfold State.placing at h2 ⊢
  rw [h2, h1]
  simp [Nat.add_comm, Nat.add_left_comm]

theorem placing_nil (s : State) : s.placing [] = s := by
  simp [State.placing, State.asPieces]

theorem place_waits {c : Cut} (h : Access.allClear c.access = false) (s : State) :
    s.place c.address c.access [] = (s.placing [c], .waiting) := by
  rw [State.place, if_neg (by simp [h])]
  rfl

theorem place_clear {a : Nat} {x : Access} {l : List Byte} (h : Access.allClear x = true)
    (s : State) : s.place a x l = (s, .served []) := by
  rw [State.place, if_pos h]

/-- Pieces that are placed as they came, one after another. -/
theorem takePieces_placed {side : Alias} : ∀ (cuts : List Cut) (s : State),
    (∀ c ∈ cuts, ∀ t : State, t.windows = s.windows →
      t.takePiece side c = t.place c.address c.access []) →
    (∀ c ∈ cuts, Access.allClear c.access = false) →
    s.takePieces side cuts = (s.placing cuts, cuts.map fun _ => .waiting)
  | [], s, _, _ => by rw [placing_nil]; rfl
  | c :: rest, s, h, hc => by
    have h1 : s.takePiece side c = (s.placing [c], .waiting) :=
      (h c List.mem_cons_self s rfl).trans (place_waits (hc c List.mem_cons_self) s)
    have ih := takePieces_placed rest (s.placing [c])
      (fun d hd t ht => h d (List.mem_cons_of_mem c hd) t ht)
      (fun d hd => hc d (List.mem_cons_of_mem c hd))
    rw [State.takePieces, h1]
    dsimp only
    rw [ih, placing_cons]
    rfl

/-- Pieces that write nothing count as completed. -/
theorem takePieces_clear {side : Alias} {s : State} : ∀ cuts : List Cut,
    (∀ c ∈ cuts, s.takePiece side c = s.place c.address c.access []) →
    (∀ c ∈ cuts, Access.allClear c.access = true) →
    s.takePieces side cuts = (s, cuts.map fun _ => .served [])
  | [], _, _ => rfl
  | c :: rest, h, hc => by
    have h1 : s.takePiece side c = (s, .served []) :=
      (h c List.mem_cons_self).trans (place_clear (hc c List.mem_cons_self) s)
    have ih := takePieces_clear rest (fun d hd => h d (List.mem_cons_of_mem c hd))
      (fun d hd => hc d (List.mem_cons_of_mem c hd))
    rw [State.takePieces, h1]
    dsimp only
    rw [ih]
    rfl

theorem waitsFor_pieces (s : State) (r : Request) (parts : List Part) :
    s.waitsFor r (s.asPieces (Request.pieces r)) parts =
      (s.placing (Request.pieces r)).withTaken r parts := by
  rw [State.waitsFor, asPieces_length]
  rfl

/-! ### Where the pieces of a request lie (R41 to R43) -/

theorem refusedWhole_none {r : Request} (h : Request.refusedWhole r = none) :
    r.offset < 33554432 ∧ r.offset / 2048 = (r.offset + r.access.count - 1) / 2048 := by
  constructor
  · by_contra hlt
    rw [refusedWhole_outOfRange (by omega)] at h
    cases h
  · by_contra hx
    by_cases hlt : r.offset < 33554432
    · rw [refusedWhole_crosses hlt hx] at h
      cases h
    · rw [refusedWhole_outOfRange (by omega)] at h
      cases h

/-- The pieces of a request that is not refused whole lie inside the bytes it names,
which lie in one block of the downstream addresses. -/
theorem pieces_inside {r : Request} (hwf : r.wellFormed = true)
    (hw : Request.refusedWhole r = none) {c : Cut} (hc : c ∈ Request.pieces r) :
    r.offset % 16777216 ≤ c.address ∧ 1 ≤ c.access.count ∧
      c.address + c.access.count ≤ r.offset % 16777216 + r.access.count ∧
      c.address / 2048 = r.offset % 16777216 / 2048 := by
  obtain ⟨k, hget⟩ := List.getElem?_of_mem hc
  obtain ⟨hk, rfl⟩ := pieces_getElem hget
  have hn := wellFormed_count hwf
  have hblock := (refusedWhole_none hw).2
  have hline := cutAt_line hk hn.1
  have h1 := cutAt_bounds r k
  have h2 := cutAt_bounds r (k + 1)
  have haddr : (Request.piece r k).address = Request.cutAt r k % 16777216 := by
    rw [piece_eq hk]
    rfl
  rw [piece_count hk, haddr]
  omega

theorem pieces_isWrite {r : Request} {c : Cut} (hc : c ∈ Request.pieces r) :
    c.access.isWrite = r.access.isWrite := by
  obtain ⟨k, hget⟩ := List.getElem?_of_mem hc
  obtain ⟨hk, rfl⟩ := pieces_getElem hget
  rw [piece_eq hk]
  exact part_isWrite _ _ _

theorem part_allClear {x : Access} {first length : Nat} (h : Access.allClear x = true) :
    Access.allClear (Access.part x first length) = true := by
  cases x with
  | read n => exact h
  | write bytes =>
    refine List.all_eq_true.mpr fun b hb => List.all_eq_true.mp h b ?_
    exact List.mem_of_mem_drop (List.mem_of_mem_take hb)

theorem pieces_allClear {r : Request} (h : Access.allClear r.access = true) {c : Cut}
    (hc : c ∈ Request.pieces r) : Access.allClear c.access = true := by
  obtain ⟨k, hget⟩ := List.getElem?_of_mem hc
  obtain ⟨hk, rfl⟩ := pieces_getElem hget
  rw [piece_eq hk]
  exact part_allClear h

theorem isControl_iff {r : Request} (hw : Request.refusedWhole r = none) :
    Request.isControl r = true ↔ 16773120 ≤ r.offset % 16777216 := by
  rw [Request.isControl, hw]
  exact decide_eq_true_iff

/-- The pieces of a request lie in the control window exactly when its route is it. -/
theorem pieces_control {r : Request} (hwf : r.wellFormed = true)
    (hw : Request.refusedWhole r = none) {c : Cut} (hc : c ∈ Request.pieces r) :
    controlBase ≤ c.address ↔ Request.isControl r = true := by
  have := pieces_inside hwf hw hc
  rw [isControl_iff hw]
  unfold controlBase
  omega

theorem locate_none {s : State} {a : Nat}
    (h : ∀ w, ∀ e ∈ s.window w, a < e.base ∨ e.base + 2048 * e.count ≤ a) : s.locate a = none := by
  refine List.findSome?_eq_none_iff.mpr fun w _ => ?_
  cases he : s.window w with
  | none => rfl
  | some e =>
    have := h w e he
    exact if_neg (by omega)

theorem takePiece_open {s : State} {side : Alias} {c : Cut} (hc : ¬controlBase ≤ c.address)
    (hl : s.locate c.address = none) : s.takePiece side c = s.place c.address c.access [] := by
  rw [State.takePiece, if_neg hc, hl]

/-- Every piece of a request to open memory is placed as it came. -/
theorem pieces_open {r : Request} (hwf : r.wellFormed = true) (hw : Request.refusedWhole r = none)
    (hctl : Request.isControl r = false) {s : State} (side : Alias)
    (hopen : ∀ w, ∀ e ∈ s.window w, r.offset % 16777216 + r.access.count ≤ e.base ∨
      e.base + 2048 * e.count ≤ r.offset % 16777216) {c : Cut} (hc : c ∈ Request.pieces r)
    {t : State} (ht : t.windows = s.windows) :
    t.takePiece side c = t.place c.address c.access [] := by
  have hin := pieces_inside hwf hw hc
  refine takePiece_open ?_ (locate_none fun w e he => ?_)
  · rw [pieces_control hwf hw hc, hctl]
    decide
  · have hse : s.window w = some e := by
      rw [← Option.mem_def.mp he, window_congr ht]
    have := hopen w e hse
    omega

theorem takeRequest_pieces {r : Request} {side : Alias} {s t : State} {parts : List Part}
    (hw : Request.refusedWhole r = none) (ha : aliasOf r.offset = some side)
    (h : s.takePieces side (Request.pieces r) = (t, parts)) :
    s.takeRequest r = t.withTaken r parts := by
  unfold State.takeRequest
  rw [hw, ha]
  simp only [h]
  rfl

theorem ready_room {s : State} {r : Request} (h : Ready s r) : s.roomFor r = true := by
  simp [State.roomFor, h.2.2.2.1]

theorem ready_control {s : State} {r : Request} (h : Ready s r) (hc : Request.isControl r = true) :
    s.controlFree = true := by
  obtain ⟨hfence, hout⟩ := h.2.2.2.2 hc
  simp only [State.controlFree, hfence, Bool.not_false, Bool.true_and]
  exact List.all_eq_true.mpr fun x hx => by simp [hout x hx]

/-- A request that waits for a piece leaves the oldest request unanswered. -/
theorem unanswered_withTaken {s : State} {r : Request} {parts : List Part} (h : Unanswered s)
    (hp : parts.all Part.done = false) : Unanswered (s.withTaken r parts) := by
  intro x hx
  unfold State.withTaken at hx
  cases ho : s.path.outstanding with
  | nil =>
    simp only [ho, List.nil_append, List.head?_cons, Option.mem_some_iff] at hx
    rw [← hx]
    exact hp
  | cons y rest =>
    simp only [ho, List.cons_append, List.head?_cons, Option.mem_some_iff] at hx
    exact hx ▸ h y (by rw [ho]; rfl)

/-- The end of a request whose pieces wait, or that waits for older ones. -/
theorem arrive_waiting {s b : State} {r : Request} {events : List FaultEvent}
    (hs : Quiet s) (h : Ready s r) (hbm : b.mode = .running)
    (ht : ∃ examine, s.takeRequest r = b.handing events examine) (hu : Unanswered b) :
    EndsAs b (s.arrive r) [] events := by
  obtain ⟨examine, ht⟩ := ht
  refine arrive_waits hs.1 hbm h.1 h.2.1 (ready_room h) (ready_control h) ?_ hu
  rw [ht]
  simp [State.handing]

theorem map_waiting_done {l : List Cut} (h : l ≠ []) :
    (l.map fun _ => Part.waiting).all Part.done = false := by
  cases l with
  | nil => exact absurd rfl h
  | cons c rest => rfl

/-- A request whose pieces are all placed as they came waits for them. -/
theorem arrive_placed {s : State} {r : Request} {side : Alias} (hs : Quiet s) (h : Ready s r)
    (hwf : r.wellFormed = true) (hw : Request.refusedWhole r = none)
    (ha : aliasOf r.offset = some side)
    (hstep : ∀ c ∈ Request.pieces r, ∀ t : State, t.windows = s.windows →
      t.takePiece side c = t.place c.address c.access [])
    (hclear : ∀ c ∈ Request.pieces r, Access.allClear c.access = false) :
    EndsAs (s.waitsFor r (s.asPieces (Request.pieces r)) ((Request.pieces r).map fun _ => .waiting))
      (s.arrive r) [] [] := by
  rw [waitsFor_pieces]
  refine arrive_waiting hs h hs.1 ⟨false, ?_⟩ (unanswered_withTaken (s := s.placing _) h.2.2.1
    (map_waiting_done (pieces_ne_nil hwf)))
  rw [takeRequest_pieces hw ha (takePieces_placed _ s hstep hclear)]
  exact settled_handing (s := (s.placing (Request.pieces r)).withTaken r _) hs.2

theorem exists_alias {r : Request} (hw : Request.refusedWhole r = none) :
    ∃ side, aliasOf r.offset = some side :=
  Option.isSome_iff_exists.mp (aliasOf_isSome (refusedWhole_none hw).1)

theorem allClear_isWrite {x : Access} (h : Access.allClear x = true) : x.isWrite = true := by
  cases x with
  | read n => cases h
  | write bytes => rfl

/-- Settles O20. -/
theorem openMemoryRequests : Obligations.OpenMemoryRequests := by
  intro s r hs hr hwf hw hctl hopen
  obtain ⟨side, ha⟩ := exists_alias hw
  have hstep : ∀ c ∈ Request.pieces r, ∀ t : State, t.windows = s.windows →
      t.takePiece side c = t.place c.address c.access [] :=
    fun c hc t ht => pieces_open hwf hw hctl side hopen hc ht
  refine ⟨fun hclear => ⟨_, exec_upstreamRequest hwf s, arrive_placed hs hr hwf hw ha hstep hclear⟩,
    fun hclear ho => ⟨_, exec_upstreamRequest hwf s, ?_⟩⟩
  have hwrite := allClear_isWrite hclear
  have hserved := takePieces_clear (s := s) (side := side) (Request.pieces r)
    (fun c hc => hstep c hc s rfl) fun c hc => pieces_allClear hclear hc
  have hends := arrive_answered
    (b := s.withTaken r ((Request.pieces r).map fun _ => .served []))
    (x := { request := r, parts := (Request.pieces r).map fun _ => .served [] }) (events := [])
    hs.1 hs.1 hr.1 hr.2.1 (ready_room hr) (ready_control hr)
    ⟨false, (takeRequest_pieces hw ha hserved).trans
      (settled_handing (s := s.withTaken r _) hs.2)⟩
    (by rw [State.withTaken, ho]; rfl) (by simp [Part.done]) (isReceipt_write hwrite)
  have hresponse : Taken.response { request := r, parts := (Request.pieces r).map fun _ => .served [] } =
      { request := r, ok := true, data := [] } := by
    simp [Taken.response, Part.ok, hwrite]
  rw [hresponse] at hends
  unfold State.fronted State.withTaken at hends
  dsimp only at hends
  rw [← ho] at hends
  exact hends

end Sys2Proof.Machine
end

section
/-! PROOFS. Writes and reads of the control window. -/

namespace Sys2Proof.Machine

/-! ### A second end of a step changes nothing -/

theorem issueWaiting_room (s : State) :
    s.issueWaiting.path.unissued = [] ∨ 16 ≤ s.issueWaiting.internalCount := by
  by_cases h : s.path.unissued.length ≤ 16 - s.internalCount
  · exact .inl (List.drop_of_length_le h)
  · refine .inr ?_
    simp only [State.internalCount, State.issueWaiting, List.length_append, List.length_take] at h ⊢
    omega

theorem issueWaiting_again {s : State} (h : s.path.unissued = [] ∨ 16 ≤ s.internalCount) :
    s.issueWaiting = s := by
  unfold State.issueWaiting
  rcases h with h | h
  · simp only [h, List.take_nil, List.drop_nil, List.append_nil]
    rw [← h]
  · simp [Nat.sub_eq_zero_of_le h]

/-- Requests on their way into the stream are counted alike. -/
theorem issueWaiting_issuable (s : State) :
    s.issueWaiting.countersIssuable = s.countersIssuable := by
  have hcount : s.issueWaiting.internalCount + s.issueWaiting.path.unissued.length =
      s.internalCount + s.path.unissued.length := by
    simp only [State.internalCount, State.issueWaiting, List.length_append, List.length_take,
      List.length_drop]
    omega
  unfold State.countersIssuable
  rw [hcount]
  rfl

theorem issueCounters_once (s : State) : s.issueCounters.countersIssuable = false := by
  unfold State.issueCounters
  split
  · simp [State.countersIssuable]
  · exact Bool.not_eq_true _ ▸ ‹¬s.countersIssuable = true›

theorem pump_pump (s : State) : s.pump.pump = s.pump := by
  by_cases hm : s.mode = .running
  · have hpump : s.pump = s.issueCounters.issueWaiting := if_pos hm
    have hcounters : s.pump.issueCounters = s.pump := by
      rw [State.issueCounters, if_neg]
      rw [hpump, issueWaiting_issuable, issueCounters_once]
      decide
    have hmode : s.pump.mode = .running := by
      rw [(pump_requests s).1]
      exact hm
    rw [State.pump, if_pos hmode, hcounters]
    exact issueWaiting_again (hpump ▸ issueWaiting_room _)
  · have hpump : s.pump = s := if_neg hm
    rw [hpump, hpump]

theorem finish_finish (s : State) : s.finish.finish = s.finish := by
  rw [finish_settled (finish_transit s), State.finish, pump_pump]

/-! ### What the key table's operations touch -/

/-- t is s with the key table changed and reports made. -/
def KeysOnly (s t : State) : Prop :=
  t = { s with keys := t.keys, transit := t.transit }

theorem KeysOnly.refl (s : State) : KeysOnly s s := rfl

theorem KeysOnly.trans {s t u : State} (h : KeysOnly s t) (h' : KeysOnly t u) : KeysOnly s u := by
  unfold KeysOnly at *
  generalize u.keys = k at *
  generalize u.transit = x at *
  rw [h', h]

theorem keysOnly_ite {c : Prop} [Decidable c] {s a b : State} (ha : KeysOnly s a)
    (hb : KeysOnly s b) : KeysOnly s (if c then a else b) := by
  split
  · exact ha
  · exact hb

theorem keysOnly_foldl {α : Type} {f : State → α → State} (h : ∀ t x, KeysOnly t (f t x)) :
    ∀ (l : List α) (s : State), KeysOnly s (l.foldl f s)
  | [], s => .refl s
  | x :: rest, s => (h s x).trans (keysOnly_foldl h rest _)

theorem updateSlot_keysOnly (s : State) (i : SlotId) (f : KeySlot → KeySlot) :
    KeysOnly s (s.updateSlot i f) := by
  unfold State.updateSlot
  exact keysOnly_ite rfl rfl

theorem evaluateHold_keysOnly (s : State) (c : Ctx) : KeysOnly s (s.evaluateHold c) := rfl

theorem raise_keysOnly (s : State) (e : FaultEvent) : KeysOnly s (s.raise e) := rfl

theorem evaluateRenewalDue_keysOnly (s : State) (c : Ctx) : KeysOnly s (s.evaluateRenewalDue c) := by
  unfold State.evaluateRenewalDue
  split
  · exact .refl s
  · exact keysOnly_ite ((updateSlot_keysOnly s _ _).trans (raise_keysOnly _ _)) (.refl s)

theorem retireDraining_keysOnly (s : State) (c : Ctx) : KeysOnly s (s.retireDraining c) := by
  unfold State.retireDraining
  split
  · exact .refl s
  · exact updateSlot_keysOnly s _ _

theorem drainActive_keysOnly (s : State) (c : Ctx) : KeysOnly s (s.drainActive c) := by
  unfold State.drainActive
  split
  · exact .refl s
  · exact updateSlot_keysOnly s _ _

theorem makeActive_keysOnly (s : State) (c : Ctx) (i : SlotId) : KeysOnly s (s.makeActive c i) := by
  unfold State.makeActive State.setRenewalDueMark
  exact (updateSlot_keysOnly s i _).trans (updateSlot_keysOnly _ i _)

theorem changeoverOnce_keysOnly (s : State) (c : Ctx) : KeysOnly s (s.changeoverOnce c) := by
  unfold State.changeoverOnce
  split
  · exact .refl s
  · dsimp only
    exact (((((retireDraining_keysOnly s c).trans (drainActive_keysOnly _ c)).trans
      (makeActive_keysOnly _ c _)).trans (raise_keysOnly _ _)).trans
        (evaluateRenewalDue_keysOnly _ c)).trans (evaluateHold_keysOnly _ c) |>.trans rfl

theorem groupActivation_keysOnly (s : State) (c : Ctx) : KeysOnly s (s.groupActivation c) :=
  keysOnly_foldl (fun t d => keysOnly_ite (changeoverOnce_keysOnly t d) (.refl t)) _ _

theorem changeoverFuel_keysOnly : ∀ (n : Nat) (s : State) (c : Ctx),
    KeysOnly s (State.changeoverFuel n s c)
  | 0, s, _ => .refl s
  | n + 1, s, c => by
    unfold State.changeoverFuel
    refine keysOnly_ite (.refl s) (((changeoverOnce_keysOnly s c).trans
      (groupActivation_keysOnly _ c)).trans (keysOnly_foldl (fun t d => ?_) _ _))
    exact keysOnly_ite (changeoverFuel_keysOnly n t d) (.refl t)

theorem afterOpen_keysOnly (s : State) (c : Ctx) (i : SlotId) : KeysOnly s (s.afterOpen c i) := by
  have hexhaust : KeysOnly s (s.exhaust c i) := by
    unfold State.exhaust
    refine keysOnly_ite (.trans (t := if (s.slot i).budgetExhaustedRaised = true then s else _)
      (keysOnly_ite (.refl s) ((updateSlot_keysOnly s i _).trans (raise_keysOnly _ _)))
      (changeoverFuel_keysOnly 16 _ c)) (.refl s)
  exact (hexhaust.trans (evaluateRenewalDue_keysOnly _ c)).trans (evaluateHold_keysOnly _ c)

/-- An open changes the window table and the key table, and reports. -/
theorem openParcel_touches {s t : State} {w : WindowIndex} {p : Nat} {c : Ctx} {owner : Owner}
    (h : s.openParcel w p c owner = some t) :
    t = { s with windows := t.windows, keys := t.keys, transit := t.transit } := by
  unfold State.openParcel at h
  split at h
  · cases h
  · rename_i i _
    injection h with h
    have hkeys := h ▸ (updateSlot_keysOnly _ i KeySlot.open).trans (afterOpen_keysOnly _ c i)
    unfold KeysOnly State.updateParcel at hkeys
    generalize t.keys = k at *
    generalize t.transit = x at *
    split at hkeys
    · rw [hkeys]
    · rw [hkeys]
      rfl

/-! ### What is left alone when a step ends: the requests not yet answered -/

/-- t has the unanswered requests of s. -/
abbrev KeepsRequests (s t : State) : Prop :=
  t.path.outstanding = s.path.outstanding

theorem takeReport_keeps (s : State) (r : Report) : KeepsRequests s (s.takeReport r) := by
  cases r with
  | event e =>
    show (s.takeEvent e).path.outstanding = _
    rw [takeEvent_eq]
  | refusal x y z =>
    show (s.takeRefusal x y z).path.outstanding = _
    rw [takeRefusal_eq]

theorem issueCounters_keeps (s : State) : KeepsRequests s s.issueCounters := by
  unfold State.issueCounters
  split <;> rfl

theorem startNotice_keeps (s : State) (w : WindowIndex) (e : Window) (c : Ctx) :
    KeepsRequests s (s.startNotice w e c) := by
  unfold State.startNotice
  dsimp only
  split
  · rfl
  · rename_i t ht
    show t.path.outstanding = _
    rw [openParcel_touches ht]

theorem examine_keeps (s : State) : KeepsRequests s s.examine := by
  unfold State.examine
  split
  · exact rfl
  split
  · exact rfl
  split
  · exact rfl
  split
  · split
    · exact rfl
    · exact startNotice_keeps _ _ _ _
  · exact rfl

theorem runExamination_keeps (s : State) : KeepsRequests s s.runExamination := by
  unfold State.runExamination
  split
  · exact examine_keeps _
  · exact rfl

theorem drainReports_keeps (s : State) : KeepsRequests s s.drainReports :=
  List.foldlRecOn (motive := fun t => KeepsRequests s t) _ _ rfl fun t ht r _ =>
    (runExamination_keeps _).trans ((issueCounters_keeps _).trans ((takeReport_keeps t r).trans ht))

theorem finish_keeps (s : State) : KeepsRequests s s.finish := by
  have hsettle : KeepsRequests s s.settle := by
    unfold State.settle
    split
    · exact (drainReports_keeps _).trans ((runExamination_keeps _).trans (drainReports_keeps s))
    · rfl
  have hpump : KeepsRequests s.settle s.settle.pump := by
    unfold KeepsRequests
    rw [(pump_requests s.settle).2.1]
  exact hpump.trans hsettle

/-- A request that waits for a piece: it is taken and nothing is answered, whatever it
has brought about. -/
theorem arrive_ready_waits {s : State} {r : Request} (hs : Quiet s) (h : Ready s r)
    (hu : Unanswered (s.takeRequest r)) : s.arrive r = (s.takeRequest r).finish := by
  rw [arrive_ready hs.1 h.1 h.2.1 (ready_room h) (ready_control h), answer_waits, finish_finish]
  intro x hx
  exact hu x (finish_keeps _ ▸ hx)

/-! ### A command taken before its request waits, or after -/

section WaitingOn

/-- s with other requests that wait for their responses. -/
def State.waitingOn (s : State) (l : List Taken) : State :=
  { s with path := { s.path with outstanding := l } }

variable (s : State) (l : List Taken)

theorem updateSlot_waitingOn (i : SlotId) (f : KeySlot → KeySlot) :
    (s.waitingOn l).updateSlot i f = (s.updateSlot i f).waitingOn l := by
  unfold State.updateSlot
  split <;> rfl

theorem updateParcel_waitingOn (w : WindowIndex) (p : Nat) (f : ParcelRecord → ParcelRecord) :
    (s.waitingOn l).updateParcel w p f = (s.updateParcel w p f).waitingOn l := by
  unfold State.updateParcel
  rw [show (s.waitingOn l).window w = s.window w from rfl]
  split <;> rfl

theorem freeParcel_waitingOn (w : WindowIndex) (p : Nat) :
    (s.waitingOn l).freeParcel w p = (s.freeParcel w p).waitingOn l := by
  unfold State.freeParcel
  rw [show (s.waitingOn l).window w = s.window w from rfl,
    show (s.waitingOn l).parcel w p = s.parcel w p from rfl]
  split
  · rename_i e q _ _
    dsimp only
    cases q.slot with
    | none =>
      dsimp only
      rw [updateParcel_waitingOn]
      split <;> rfl
    | some i =>
      dsimp only
      rw [updateSlot_waitingOn, updateParcel_waitingOn]
      split <;> rfl
  · rfl

theorem foldl_waitingOn {α : Type} {f : State → α → State}
    (h : ∀ (t : State) (x : α), f (t.waitingOn l) x = (f t x).waitingOn l) :
    ∀ (xs : List α) (s : State), xs.foldl f (s.waitingOn l) = (xs.foldl f s).waitingOn l
  | [], _ => rfl
  | x :: rest, s => by rw [List.foldl_cons, h, foldl_waitingOn h rest, List.foldl_cons]

theorem purgeJobs_waitingOn :
    (s.waitingOn l).purgeJobs = s.purgeJobs.waitingOn l := by
  unfold State.purgeJobs
  dsimp only
  rw [show (s.waitingOn l).tag.running = s.tag.running from rfl]
  cases s.tag.running with
  | none => rfl
  | some run =>
    dsimp only
    rw [show (s.waitingOn l).purgeEnds run.job = s.purgeEnds run.job from rfl]
    split <;> rfl

theorem purgeNotice_waitingOn :
    (s.waitingOn l).purgeNotice = s.purgeNotice.waitingOn l := by
  unfold State.purgeNotice State.noticeFailed
  rw [show (s.waitingOn l).composer.notice = s.composer.notice from rfl]
  cases s.composer.notice <;> rfl

theorem purgeWindow_waitingOn (w : WindowIndex) :
    (s.waitingOn l).purgeWindow w = (s.purgeWindow w).waitingOn l := by
  unfold State.purgeWindow
  rw [show (s.waitingOn l).window w = s.window w from rfl]
  cases s.window w with
  | none => rfl
  | some e =>
    refine foldl_waitingOn l (fun t p => ?_) _ s
    unfold State.purgeParcel
    rw [show (t.waitingOn l).parcel w p = t.parcel w p from rfl]
    cases t.parcel w p with
    | none => rfl
    | some q =>
      dsimp only
      rw [freeParcel_waitingOn]
      split <;> rfl

theorem emptyAllSlots_waitingOn :
    (s.waitingOn l).emptyAllSlots = s.emptyAllSlots.waitingOn l := by
  unfold State.emptyAllSlots
  rw [foldl_waitingOn l (fun t i => updateSlot_waitingOn t l i _)]
  exact foldl_waitingOn l (fun t c => rfl) _ _

theorem giveEntry_waitingOn :
    (s.waitingOn l).giveEntry = s.giveEntry.waitingOn l := by
  unfold State.giveEntry
  rw [show (s.waitingOn l).jobRoom = s.jobRoom from rfl,
    show (s.waitingOn l).tag = s.tag from rfl]
  split
  · cases s.tag.deferred with
    | nil =>
      cases s.tag.waitingSeal with
      | none => rfl
      | some x =>
        dsimp only [State.handOff]
        rw [show ∀ t, { s.waitingOn l with tag := t } =
            State.waitingOn { s with tag := t } l from fun _ => rfl,
          updateParcel_waitingOn]
        rfl
    | cons d rest =>
      dsimp only
      rw [show ∀ t, { s.waitingOn l with tag := t } =
          State.waitingOn { s with tag := t } l from fun _ => rfl, updateParcel_waitingOn]
      rfl
  · rfl

theorem giveEntries_waitingOn : ∀ (n : Nat) (s : State),
    State.giveEntries n (s.waitingOn l) = (State.giveEntries n s).waitingOn l
  | 0, _ => rfl
  | n + 1, s => by
    rw [State.giveEntries, giveEntry_waitingOn, giveEntries_waitingOn n]
    rfl

theorem startNext_waitingOn :
    (s.waitingOn l).startNext = s.startNext.waitingOn l := by
  unfold State.startNext
  rw [show (s.waitingOn l).tag = s.tag from rfl]
  cases s.tag.running with
  | some run => rfl
  | none =>
    cases s.tag.queue with
    | nil => rfl
    | cons j rest =>
      dsimp only
      rw [show ∀ t, { s.waitingOn l with tag := t } =
          State.waitingOn { s with tag := t } l from fun _ => rfl]
      generalize ({ s with tag := { s.tag with queue := rest } } : State) = u
      rw [show (u.waitingOn l).window j.window = u.window j.window from rfl,
        show (u.waitingOn l).parcel j.window j.parcel = u.parcel j.window j.parcel from rfl]
      split
      · unfold State.beginJob
        cases j.kind <;> rfl
      · rfl

theorem tagSettle_waitingOn :
    (s.waitingOn l).tagSettle = s.tagSettle.waitingOn l := by
  unfold State.tagSettle
  rw [giveEntries_waitingOn, startNext_waitingOn, giveEntries_waitingOn]

theorem purge_waitingOn : (s.waitingOn l).purge = s.purge.waitingOn l := by
  unfold State.purge
  dsimp only
  rw [purgeJobs_waitingOn, purgeNotice_waitingOn,
    foldl_waitingOn l (fun t w => purgeWindow_waitingOn t l w),
    emptyAllSlots_waitingOn, show (s.waitingOn l).slotsHeld = s.slotsHeld from rfl]
  generalize State.emptyAllSlots _ = u
  exact tagSettle_waitingOn (u.raise _) l

theorem takeCommand_waitingOn (code ticket : Nat) :
    (s.waitingOn l).takeCommand code ticket = (s.takeCommand code ticket).waitingOn l := by
  unfold State.takeCommand
  rw [show (s.waitingOn l).latchCommand code ticket =
    (s.latchCommand code ticket).waitingOn l from rfl, purge_waitingOn,
    show (s.waitingOn l).mode = s.mode from rfl,
    show (s.waitingOn l).command = s.command from rfl,
    show (s.waitingOn l).slotsHeld = s.slotsHeld from rfl]
  generalize (s.latchCommand code ticket).purge = u
  split
  · rfl
  split
  · rfl
  split
  · rfl
  split
  · rfl
  split <;> rfl

theorem takeHeartbeat_waitingOn :
    (s.waitingOn l).takeHeartbeat = s.takeHeartbeat.waitingOn l := by
  unfold State.takeHeartbeat
  dsimp only
  rw [show (s.waitingOn l).time = s.time from rfl]
  split
  · rfl
  · split <;> rfl

/-- What does not depend on the requests that wait leaves them, and may happen before
one more joins them. -/
theorem withTaken_of_waitingOn {f : State → State}
    (h : ∀ (t : State) (l : List Taken), f (t.waitingOn l) = (f t).waitingOn l) (r : Request)
    (parts : List Part) :
    (f s).withTaken r parts = f (s.withTaken r parts) ∧
      (f s).path.outstanding = s.path.outstanding := by
  have hsame : f s = (f s).waitingOn s.path.outstanding := h s s.path.outstanding
  have hkeeps : (f s).path.outstanding = s.path.outstanding :=
    (congrArg (fun t : State => t.path.outstanding) hsame).trans rfl
  refine ⟨?_, hkeeps⟩
  show _ = f (s.waitingOn (s.path.outstanding ++ [{ request := r, parts := parts }]))
  rw [h, ← hkeeps]
  rfl

end WaitingOn

/-! ### Requests of one piece -/

theorem part_whole (x : Access) : Access.part x 0 x.count = x := by
  cases x with
  | read n => rfl
  | write bytes => simp [Access.part, Access.count]

theorem pieces_single {r : Request} (h : Request.pieceCount r = 1) :
    Request.pieces r = [{ address := r.offset % 16777216, access := r.access }] := by
  have hend := cutAt_pieceCount r
  rw [h] at hend
  have hpiece : Request.piece r 0 = { address := r.offset % 16777216, access := r.access } := by
    rw [piece_eq (by omega), cutAt_zero, hend, Nat.sub_self, Nat.add_sub_cancel_left, part_whole]
    rfl
  rw [Request.pieces, h, ← hpiece]
  rfl

theorem takePieces_single {s t : State} {side : Alias} {c : Cut} {part : Part}
    (h : s.takePiece side c = (t, part)) : s.takePieces side [c] = (t, [part]) := by
  simp [State.takePieces, h]

/-- Pieces refused alike, one after another. -/
theorem takePieces_refused {side : Alias} {x : Fin 9} {reason : RefusalReason}
    {parcel : Option Nat} : ∀ (cuts : List Cut) (s : State),
    (∀ c ∈ cuts, ∀ t : State, t.windows = s.windows →
      t.takePiece side c = (t.reportRefusal x reason parcel, .notServed c.access.count)) →
    s.takePieces side cuts =
      (s.refusing cuts.length x reason parcel, cuts.map fun c => .notServed c.access.count)
  | [], s, _ => by simp [State.takePieces, State.refusing]
  | c :: rest, s, h => by
    have ih := takePieces_refused rest (s.reportRefusal x reason parcel)
      fun d hd t ht => h d (List.mem_cons_of_mem c hd) t ht
    rw [State.takePieces, h c List.mem_cons_self s rfl]
    dsimp only
    rw [ih, refusing_succ]
    rfl

/-! ### A write piece of the control window -/

section ControlWrite

variable {s : State} {offset : Nat} {bytes : List (Option Byte)}

theorem controlWrite_facts (h : controlPieceWellFormed offset bytes = true) :
    (controlWriteRequest offset bytes).wellFormed = true ∧
      Request.refusedWhole (controlWriteRequest offset bytes) = none ∧
      aliasOf (controlWriteRequest offset bytes).offset = some .plain ∧
      Request.pieceCount (controlWriteRequest offset bytes) = 1 ∧
      Request.pieces (controlWriteRequest offset bytes) =
        [{ address := controlBase + offset, access := .write bytes }] := by
  simp only [controlPieceWellFormed, Bool.and_eq_true, decide_eq_true_eq] at h
  obtain ⟨⟨h1, h2⟩, h3⟩ := h
  have hcount : Request.pieceCount (controlWriteRequest offset bytes) = 1 := by
    simp only [Request.pieceCount, controlWriteRequest, controlBase, Access.count]
    omega
  have halias : aliasOf (controlWriteRequest offset bytes).offset = some .plain := by
    refine if_pos ?_
    simp only [controlWriteRequest, controlBase]
    omega
  have hcross : Request.crosses (controlWriteRequest offset bytes) = false := by
    refine decide_eq_false ?_
    simp only [controlWriteRequest, controlBase, Access.count]
    omega
  refine ⟨?_, ?_, halias, hcount, ?_⟩
  · rw [Request.wellFormed, Bool.and_eq_true]
    exact ⟨decide_eq_true h2, decide_eq_true (show bytes.length ≤ 256 by omega)⟩
  · simp [Request.refusedWhole, halias, hcross]
  · rw [pieces_single hcount]
    have : (controlWriteRequest offset bytes).offset % 16777216 = controlBase + offset := by
      simp only [controlWriteRequest, controlBase]
      omega
    rw [this]
    rfl

theorem exec_controlWindowWrite (h : controlPieceWellFormed offset bytes = true) :
    exec (.controlWindowWrite offset bytes) s =
      .next (s.arrive (controlWriteRequest offset bytes)) :=
  if_pos h

/-- The request of an accepted piece with a byte to write: it is placed, and what it
causes happens. -/
theorem takeRequest_controlWrite (h : controlPieceWellFormed offset bytes = true)
    (hr : s.controlRefusal offset bytes = none) (hb : bytes.all Option.isNone = false) :
    s.takeRequest (controlWriteRequest offset bytes) =
      ((s.placing (Request.pieces (controlWriteRequest offset bytes))).controlEffects offset
        bytes).withTaken (controlWriteRequest offset bytes) [.waiting] := by
  obtain ⟨-, hw, ha, -, hpieces⟩ := controlWrite_facts h
  have hplace : s.place (controlBase + offset) (.write bytes) [] =
      (s.placing [{ address := controlBase + offset, access := .write bytes }], .waiting) :=
    place_waits (c := { address := controlBase + offset, access := .write bytes }) hb s
  refine takeRequest_pieces hw ha ?_
  rw [hpieces]
  refine takePieces_single ?_
  rw [State.takePiece, if_pos (Nat.le_add_right _ _), takeControlPiece_accepted hr, hplace]

/-- The step of an accepted piece whose effect does not depend on the requests that wait. -/
theorem arrive_controlWrite {f : State → State} (hs : Quiet s)
    (hready : Ready s (controlWriteRequest offset bytes))
    (h : controlPieceWellFormed offset bytes = true)
    (hr : s.controlRefusal offset bytes = none) (hb : bytes.all Option.isNone = false)
    (hf : ∀ t : State, t.mode = .running → t.controlEffects offset bytes = f t)
    (hw : ∀ (t : State) (l : List Taken), f (t.waitingOn l) = (f t).waitingOn l) :
    s.arrive (controlWriteRequest offset bytes) =
      (f (s.waitsFor (controlWriteRequest offset bytes)
        (s.asPieces (Request.pieces (controlWriteRequest offset bytes))) [.waiting])).finish := by
  have hplaced := withTaken_of_waitingOn
    (s.placing (Request.pieces (controlWriteRequest offset bytes))) hw
    (controlWriteRequest offset bytes) [.waiting]
  have htake : s.takeRequest (controlWriteRequest offset bytes) =
      f (s.waitsFor (controlWriteRequest offset bytes)
        (s.asPieces (Request.pieces (controlWriteRequest offset bytes))) [.waiting]) := by
    rw [takeRequest_controlWrite h hr hb,
      hf (s.placing (Request.pieces (controlWriteRequest offset bytes))) hs.1, hplaced.1,
      waitsFor_pieces]
  rw [← htake]
  refine arrive_ready_waits hs hready fun x hx => ?_
  have hkeeps := (withTaken_of_waitingOn (s.waitsFor (controlWriteRequest offset bytes)
    (s.asPieces (Request.pieces (controlWriteRequest offset bytes))) [.waiting]) hw
      (controlWriteRequest offset bytes) []).2
  rw [htake, hkeeps] at hx
  exact unanswered_withTaken (s := s) hready.2.2.1 rfl x hx

end ControlWrite

theorem enables_iff_index {test : Nat → Bool} {offset : Nat} {bytes : List (Option Byte)} :
    enables test offset bytes = true ↔
      ∃ k v, bytes[k]? = some (some v) ∧ test (offset + k) = true := by
  rw [enables_iff]
  constructor
  · rintro ⟨n, ⟨hle, v, hv⟩, ht⟩
    exact ⟨n - offset, v, hv, by rwa [Nat.add_sub_cancel' hle]⟩
  · rintro ⟨k, v, hv, ht⟩
    exact ⟨offset + k, ⟨by omega, v, by rwa [Nat.add_sub_cancel_left]⟩, ht⟩

theorem isNone_all_false {bytes : List (Option Byte)} {v : Byte} (h : some v ∈ bytes) :
    bytes.all Option.isNone = false := by
  by_contra hall
  exact absurd (List.all_eq_true.mp (Bool.of_not_eq_false hall) _ h) (by simp)

/-- An enabled byte lies in the line of its piece. -/
theorem controlPiece_line {offset k : Nat} {bytes : List (Option Byte)} {v : Byte}
    (h : controlPieceWellFormed offset bytes = true) (hk : bytes[k]? = some (some v)) :
    (offset + k) / 32 = offset / 32 := by
  simp only [controlPieceWellFormed, Bool.and_eq_true, decide_eq_true_eq] at h
  have := (List.getElem?_eq_some_iff.mp hk).1
  omega

theorem not_writesCommandWord {offset : Nat} {bytes : List (Option Byte)}
    (h : commandWordOf offset bytes = none) :
    ¬∃ a b c d, WritesCommandWord offset bytes a b c d := by
  rintro ⟨a, b, c, d, hw⟩
  rw [commandWordOf_of_writes hw] at h
  cases h

theorem isControl_refusedWhole {r : Request} (h : Request.isControl r = true) :
    Request.refusedWhole r = none := by
  cases hw : Request.refusedWhole r with
  | none => rfl
  | some reason => rw [isControl_refused hw] at h; cases h

theorem aliasOf_raw {n : Nat} (h : 16777216 ≤ n) (hlt : n < 33554432) : aliasOf n = some .raw := by
  rw [aliasOf, if_neg (by omega), if_pos (by omega)]

/-- A request to the control window on the raw side. -/
theorem arrive_controlRaw {s : State} {r : Request} (hs : Quiet s) (h : Ready s r)
    (hwf : r.wellFormed = true) (hc : Request.isControl r = true) (hraw : 16777216 ≤ r.offset)
    (ho : s.path.outstanding = []) :
    EndsRefused (s.answered r false (Request.zeros r)) (s.arrive r) 8 (Request.pieceCount r)
      .controlRaw none := by
  have hw := isControl_refusedWhole hc
  refine arrive_allRefused hs hwf h.1 h.2.1 (ready_room h) (ready_control h) ho ?_
  have htaken := takePieces_refused (side := .raw) (x := 8) (reason := .controlRaw) (parcel := none)
    (Request.pieces r) s fun c hmem t _ => if_pos ((pieces_control hwf hw hmem).mpr hc)
  rw [pieces_length] at htaken
  exact takeRequest_pieces hw (aliasOf_raw hraw (refusedWhole_none hw).1) htaken

/-- A read of the control window is forwarded. -/
theorem arrive_controlRead {s : State} {r : Request} (hs : Quiet s) (h : Ready s r)
    (hwf : r.wellFormed = true) (hc : Request.isControl r = true) (hplain : r.offset < 16777216)
    (hread : r.access.isWrite = false) :
    EndsAs (s.waitsFor r (s.asPieces (Request.pieces r)) ((Request.pieces r).map fun _ => .waiting))
      (s.arrive r) [] [] := by
  have hw := isControl_refusedWhole hc
  refine arrive_placed (side := .plain) hs h hwf hw (if_pos hplain) (fun c hmem t _ => ?_)
    fun c hmem => ?_
  · obtain ⟨address, access⟩ := c
    have hr := pieces_isWrite hmem
    rw [State.takePiece, if_pos ((pieces_control hwf hw hmem).mpr hc)]
    cases access with
    | read n => rfl
    | write bytes => exact absurd (hr.trans hread) (by simp [Access.isWrite])
  · by_contra hall
    have := allClear_isWrite (Bool.of_not_eq_false hall)
    rw [pieces_isWrite hmem, hread] at this
    cases this

/-- Settles O27. A write is one piece: what it causes does not look at the requests that
wait, so it happens as if the request waited already. -/
theorem controlWindowWrites : Obligations.ControlWindowWrites := by
  refine ⟨fun s r hs h hwf hc => ⟨fun hraw ho => ⟨_, exec_upstreamRequest hwf s,
    arrive_controlRaw hs h hwf hc hraw ho⟩, fun hplain hread =>
    ⟨_, exec_upstreamRequest hwf s, arrive_controlRead hs h hwf hc hplain hread⟩⟩, ?_⟩
  intro s offset bytes hwf r placed hs hready
  have hexec := exec_controlWindowWrite (s := s) hwf
  refine ⟨fun hall hword hsome => ?forwarded, fun hbeat => ?heartbeat,
    fun code a b d hzero hbytes hidle => ?command, fun ho howned => ?refused⟩
  case forwarded =>
    obtain ⟨v, hv⟩ := hsome
    have hrefusal : s.controlRefusal offset bytes = none := by
      refine controlRefusal_eq_none (fun h => ?_) fun ⟨h, hphase⟩ => ?_
      · obtain ⟨k, v, hk, hin⟩ := enables_iff_index.mp h
        rw [inPartOwnedArea_iff] at hin
        have := hall k ⟨v, hk⟩
        omega
      · obtain ⟨k, v, hk, hin⟩ := enables_iff_index.mp h
        rw [inCommandArea_iff] at hin
        rcases hall k ⟨v, hk⟩ with ⟨-, hidle⟩ | h | h
        · exact hphase hidle
        · omega
        · omega
    have hbeat : ¬enables inHeartbeatWord offset bytes = true := fun h => by
      obtain ⟨k, v, hk, hin⟩ := enables_iff_index.mp h
      rw [inHeartbeatWord_iff] at hin
      have := hall k ⟨v, hk⟩
      omega
    have harrive := arrive_controlWrite (f := id) hs hready hwf hrefusal (isNone_all_false hv)
      (fun t _ => controlEffects_none (not_writesCommandWord hword) hbeat) fun _ _ => rfl
    refine ⟨_, hexec, ?_⟩
    rw [harrive]
    exact finish_nothing (t := placed) hs.1 (congrArg Transit.reports hs.2)
  case heartbeat =>
    obtain ⟨k, v, hk, hlo, hhi⟩ := hbeat
    have hline : ∀ k' v', bytes[k']? = some (some v') → 0x40 ≤ offset + k' ∧ offset + k' < 0x60 :=
      fun k' v' hk' => by
        have h1 := controlPiece_line hwf hk
        have h2 := controlPiece_line hwf hk'
        omega
    have hrefusal : s.controlRefusal offset bytes = none := by
      refine controlRefusal_eq_none (fun h => ?_) fun ⟨h, _⟩ => ?_
      · obtain ⟨k', v', hk', hin⟩ := enables_iff_index.mp h
        rw [inPartOwnedArea_iff] at hin
        have := hline k' v' hk'
        omega
      · obtain ⟨k', v', hk', hin⟩ := enables_iff_index.mp h
        rw [inCommandArea_iff] at hin
        have := hline k' v' hk'
        omega
    have hword : ¬∃ a b c d, WritesCommandWord offset bytes a b c d := by
      rintro ⟨a, b, c, d, rfl, -⟩
      have := controlPiece_line hwf hk
      omega
    have hbeat : enables inHeartbeatWord offset bytes = true :=
      enables_iff_index.mpr ⟨k, v, hk, inHeartbeatWord_iff.mpr ⟨hlo, hhi⟩⟩
    have harrive := arrive_controlWrite (f := State.takeHeartbeat) hs hready hwf hrefusal
      (isNone_all_false (List.mem_of_getElem? hk))
      (fun t hm => controlEffects_heartbeat hm hword hbeat) fun t l => takeHeartbeat_waitingOn t l
    rw [hexec, harrive]
    exact (if_pos (show placed.mode = .running from hs.1)).symm
  case command =>
    have hwrites : WritesCommandWord offset bytes code a b d := ⟨hzero, hbytes⟩
    have hk : bytes[0]? = some (some code) := by
      have : (bytes.take 4)[0]? = some (some code) := by rw [hbytes]; rfl
      rwa [List.getElem?_take_of_lt (by omega)] at this
    have hline : ∀ k' v', bytes[k']? = some (some v') → offset + k' < 0x20 := fun k' v' hk' => by
      have := controlPiece_line hwf hk'
      omega
    have hrefusal : s.controlRefusal offset bytes = none := by
      refine controlRefusal_eq_none (fun h => ?_) fun ⟨_, hphase⟩ => hphase hidle
      obtain ⟨k', v', hk', hin⟩ := enables_iff_index.mp h
      rw [inPartOwnedArea_iff] at hin
      have := hline k' v' hk'
      omega
    have hbeat : ¬enables inHeartbeatWord offset bytes = true := fun h => by
      obtain ⟨k', v', hk', hin⟩ := enables_iff_index.mp h
      rw [inHeartbeatWord_iff] at hin
      have := hline k' v' hk'
      omega
    have hticket : (d ++ b ++ a : BitVec 24).toNat = a.toNat + 256 * b.toNat + 65536 * d.toNat := by
      have ha := a.isLt
      have hb := b.isLt
      simp only [BitVec.toNat_append, Nat.shiftLeft_eq]
      rw [← Nat.shiftLeft_eq, ← Nat.shiftLeft_eq, ← Nat.shiftLeft_add_eq_or_of_lt hb,
        ← Nat.shiftLeft_add_eq_or_of_lt ha]
      simp only [Nat.shiftLeft_eq]
      omega
    have harrive := arrive_controlWrite
      (f := fun t => t.takeCommand code.toNat (a.toNat + 256 * b.toNat + 65536 * d.toNat))
      hs hready hwf hrefusal (isNone_all_false (List.mem_of_getElem? hk))
      (fun t _ => controlEffects_command hwrites hbeat)
      fun t l => takeCommand_waitingOn t l code.toNat _
    rw [hexec, harrive, ← hticket]
    rfl
  case refused =>
    obtain ⟨k, v, hk, hin⟩ := howned
    have howned : enables inPartOwnedArea offset bytes = true :=
      enables_iff_index.mpr ⟨k, v, hk, inPartOwnedArea_iff.mpr (by omega)⟩
    obtain ⟨hwfr, hw, ha, hcount, hpieces⟩ := controlWrite_facts hwf
    refine ⟨_, hexec, ?_⟩
    have htaken := takePieces_refused (side := .plain) (x := 8) (reason := .readOnlyArea)
      (parcel := none) (Request.pieces (controlWriteRequest offset bytes)) s fun c hmem t _ => by
        rw [hpieces, List.mem_singleton] at hmem
        rw [hmem, State.takePiece, if_pos (Nat.le_add_right _ _),
          takeControlPiece_refused (controlRefusal_of_owned howned)]
        rfl
    rw [pieces_length] at htaken
    have h := arrive_allRefused hs hwfr hready.1 hready.2.1 (ready_room hready)
      (ready_control hready) ho (takeRequest_pieces hw ha htaken)
    rw [hcount] at h
    exact h

end Sys2Proof.Machine
end

section
/-! PROOFS. Requests to parcels: what their pieces do, and how the step hands on the reports
of all of them. -/

namespace Sys2Proof.Machine

/-! ### Reports of both kinds, taken one after another -/

theorem takeReport_eq (s : State) (r : Report) :
    s.takeReport r = { s with
      fault := (s.takeReport r).fault,
      composer := { s.composer with gather := (s.takeReport r).composer.gather },
      transit := (s.takeReport r).transit } := by
  cases r with
  | event e => exact takeEvent_eq s e
  | refusal x y z => exact takeRefusal_eq s x y z

theorem takeReport_notice {a b : State} (h : SameNotice a b) (r : Report) :
    SameNotice (a.takeReport r) (b.takeReport r) := by
  cases r with
  | event e => exact takeEvent_notice h e
  | refusal x y z => exact takeRefusal_same h x y z

theorem foldl_takeReport_notice : ∀ (l : List Report) {a b : State}, SameNotice a b →
    SameNotice (l.foldl State.takeReport a) (l.foldl State.takeReport b)
  | [], _, _, h => h
  | r :: rest, _, _, h => foldl_takeReport_notice rest (takeReport_notice h r)

theorem foldl_takeReport_eq : ∀ (l : List Report) (s : State),
    l.foldl State.takeReport s = { s with
      fault := (l.foldl State.takeReport s).fault,
      composer := { s.composer with gather := (l.foldl State.takeReport s).composer.gather },
      transit := (l.foldl State.takeReport s).transit }
  | [], _ => rfl
  | r :: rest, s => by
    rw [List.foldl_cons]
    conv_lhs => rw [foldl_takeReport_eq rest (s.takeReport r), takeReport_eq s r]
    conv_rhs => rw [takeReport_eq s r]

theorem makeRecord_reports (s : State) (e : FaultEvent) :
    (s.makeRecord e).transit.reports = s.transit.reports := by
  unfold State.makeRecord
  dsimp only
  split <;> split <;> rfl

theorem takeReport_reports (s : State) (r : Report) :
    (s.takeReport r).transit.reports = s.transit.reports := by
  cases r with
  | event e =>
    show (s.takeEvent e).transit.reports = _
    unfold State.takeEvent
    split
    · exact makeRecord_reports s e
    · rfl
  | refusal x y z =>
    show (s.takeRefusal x y z).transit.reports = _
    unfold State.takeRefusal
    dsimp only
    split
    · split
      · exact makeRecord_reports _ _
      · rfl
    · rfl

/-- The reports a step hands on, each with the counters write it calls for, while no
notice starts. -/
theorem fold_handsOn : ∀ (l : List Report) {a b : State}, SameNotice a b →
    (∀ k, k ≤ l.length → ((l.take k).foldl State.takeReport b).noticeCalled = false) →
    ∃ u more, l.foldl (fun t r => (t.takeReport r).issueCounters.runExamination) a = u ∧
      SameNotice u (l.foldl State.takeReport b) ∧ OnlyCounters more ∧
      u = { a with
        path := { a.path with unissued := a.path.unissued ++ more },
        fault := u.fault, composer := u.composer, transit := u.transit } ∧
      u.transit.reports = a.transit.reports
  | [], a, _, h, _ => ⟨a, [], rfl, h, by simp [OnlyCounters], by simp, rfl⟩
  | r :: rest, a, b, h, hb => by
    have hrest : ∀ k, k ≤ rest.length →
        ((rest.take k).foldl State.takeReport (b.takeReport r)).noticeCalled = false :=
      fun k hk => hb (k + 1) (Nat.succ_le_succ hk)
    have hsame : SameNotice (a.takeReport r).issueCounters (b.takeReport r) :=
      issueCounters_same (takeReport_notice h r)
    have hquiet := runExamination_quiet ((noticeCalled_congr hsame).trans
      (hrest 0 (Nat.zero_le _)))
    have hnext : SameNotice (a.takeReport r).issueCounters.runExamination (b.takeReport r) := by
      rw [hquiet]
      exact hsame
    obtain ⟨u, more, hu, hs, hm, hx, hr⟩ := fold_handsOn rest hnext hrest
    obtain ⟨first, hf, hi⟩ := issueCounters_eq (a.takeReport r)
    refine ⟨u, first ++ more, hu, hs, onlyCounters_append hf hm, ?_, ?_⟩
    · rw [hx, hquiet, hi, takeReport_eq a r]
      simp
    · rw [hr, hquiet, hi]
      exact takeReport_reports a r

/-- The end of a step of a running part, whatever it hands on. -/
theorem finish_handsOn {b : State} (hm : b.mode = .running) : HandsOn b b.finish := by
  intro hb
  obtain ⟨u, first, hu, hs, hfirst, hx, hreports⟩ := fold_handsOn b.transit.reports
    (a := { b with transit := { b.transit with reports := [] } })
    (b := { b with transit := Transit.empty }) ⟨⟨rfl, rfl, rfl, rfl⟩, rfl⟩ hb
  have hlast : u.noticeCalled = false := by
    have h := hb b.transit.reports.length (Nat.le_refl _)
    rw [State.told, List.take_length] at h
    exact (noticeCalled_congr hs).trans h
  have hdrain : b.drainReports = u := hu
  have hsettle : b.settle = { u with transit := Transit.empty } := by
    unfold State.settle
    rw [if_pos hm, hdrain, runExamination_quiet hlast]
    unfold State.drainReports
    dsimp only
    rw [hreports]
    rfl
  have htold : b.told b.transit.reports.length = b.transit.reports.foldl State.takeReport
      { b with transit := Transit.empty } := by
    rw [State.told, List.take_length]
  obtain ⟨p1, p2, p3, more, p4, p5⟩ := pump_requests b.settle
  dsimp only
  rw [htold, State.finish]
  generalize b.settle.pump = t at *
  have hsp : b.settle.path = { b.path with unissued := b.path.unissued ++ first } := by
    rw [hsettle, hx]
  have hfault : b.settle.fault = u.fault := by rw [hsettle]
  have hcomposer : t.composer = u.composer := by
    rw [p1]
    show b.settle.composer = _
    rw [hsettle]
  refine ⟨?_, ⟨?_, first ++ more, ?_, onlyCounters_append hfirst p5⟩, ?_, ?_⟩
  · have hmid : b.settle = { b with
        path := b.settle.path, fault := b.settle.fault, composer := u.composer,
        transit := Transit.empty } := by
      rw [hsp, hfault, hsettle]
      dsimp only
      conv_lhs => rw [hx]
    generalize hv : b.settle = v at *
    rw [hcomposer]
    generalize t.path = tp at *
    generalize t.fault = tf at *
    rw [p1, hmid]
  · conv_lhs => rw [p2, hsp]
  · rw [p4]
    unfold State.requests
    rw [hsp]
    simp
  · conv_lhs => rw [p3, hfault, hs.1.1]
  · rw [hcomposer, hs.1.2.2.2, foldl_takeReport_eq]

theorem told_fronted {b : State} {port : List Request} {passing : List Piece}
    {outstanding : List Taken} {serial : Nat} {responses : List Response} (n : Nat) :
    SameNotice ((b.fronted port passing outstanding serial responses).told n) (b.told n) :=
  foldl_takeReport_notice _ ⟨⟨rfl, rfl, rfl, rfl⟩, rfl⟩

theorem handsOn_fronted {b t : State} {port : List Request} {passing : List Piece}
    {outstanding : List Taken} {serial : Nat} {responses : List Response} (h : HandsOn b t) :
    HandsOn (b.fronted port passing outstanding serial responses)
      (t.fronted port passing outstanding serial responses) := by
  intro hq
  have hsame : SameNotice ((b.fronted port passing outstanding serial responses).told
      (b.fronted port passing outstanding serial responses).transit.reports.length)
      (b.told b.transit.reports.length) := told_fronted _
  obtain ⟨ht, ⟨hp, more, hr, ho⟩, hf, hg⟩ := h fun k hk =>
    (noticeCalled_congr (told_fronted k)).symm.trans (hq k hk)
  refine ⟨?_, ⟨?_, more, hr, ho⟩, ?_, ?_⟩
  · unfold State.fronted
    conv_lhs => rw [ht]
  · show State.path (t.fronted ..) = _
    unfold State.fronted
    conv_lhs => rw [hp]
  · dsimp only
    rw [hsame.1.1]
    exact hf
  · show t.composer = _
    rw [hsame.1.2.2.2]
    exact hg

theorem handsOn_finish {b t : State} (h : HandsOn b t) : HandsOn b t.finish := by
  intro hq
  obtain ⟨ht, ⟨hp, more, hr, hc⟩, hf, hg⟩ := h hq
  rw [finish_settled (by rw [ht])]
  obtain ⟨a1, a2, a3, more', a4, a5⟩ := pump_requests t
  refine ⟨?_, ⟨?_, more ++ more', ?_, onlyCounters_append hc a5⟩, ?_, ?_⟩
  · generalize t.pump = u at *
    rw [a1]
    generalize u.path = up at *
    generalize u.fault = uf at *
    rw [ht]
  · generalize t.pump = u at *
    rw [a2]
    generalize u.path.internal = i1
    generalize u.path.unissued = i2
    rw [hp]
  · rw [a4, hr]
    simp
  · conv_lhs => rw [a3, hf]
  · rw [a1]
    exact hg

/-! ### Where the windows lie, while pieces are taken -/

/-- Where a window lies, how many parcels it has and how many records. -/
def State.layout (s : State) (w : WindowIndex) : Option (Nat × Nat × Nat) :=
  (s.window w).map fun e => (e.base, e.count, e.parcels.length)

/-- t has the windows of s where they lay, its mode and its unanswered requests. -/
def KeepsPlace (s t : State) : Prop :=
  t.layout = s.layout ∧ t.mode = s.mode ∧ KeepsRequests s t

theorem KeepsPlace.refl (s : State) : KeepsPlace s s := ⟨rfl, rfl, rfl⟩

theorem KeepsPlace.trans {s t u : State} (h : KeepsPlace s t) (h' : KeepsPlace t u) :
    KeepsPlace s u :=
  ⟨h'.1.trans h.1, h'.2.1.trans h.2.1, h'.2.2.trans h.2.2⟩

/-- What changes neither the window table nor the mode nor the unanswered requests. -/
theorem keepsPlace_of {s t : State} (hw : t.windows = s.windows) (hm : t.mode = s.mode)
    (ho : KeepsRequests s t) : KeepsPlace s t := by
  refine ⟨funext fun w => ?_, hm, ho⟩
  unfold State.layout State.window
  rw [hw]

theorem KeysOnly.keepsPlace {s t : State} (h : KeysOnly s t) : KeepsPlace s t :=
  keepsPlace_of (by rw [h]) (by rw [h]) (by rw [KeepsRequests, h])

theorem updateParcel_keepsPlace (s : State) (w : WindowIndex) (p : Nat)
    (f : ParcelRecord → ParcelRecord) : KeepsPlace s (s.updateParcel w p f) := by
  unfold State.updateParcel
  cases he : s.window w with
  | none => exact .refl s
  | some e =>
    refine ⟨funext fun v => ?_, rfl, rfl⟩
    unfold State.layout
    rw [window_setWindow]
    by_cases hv : v = w
    · rw [if_pos hv, hv, he]
      simp
    · rw [if_neg hv]

theorem freeParcel_keepsPlace (s : State) (w : WindowIndex) (p : Nat) :
    KeepsPlace s (s.freeParcel w p) := by
  unfold State.freeParcel
  split
  · rename_i e r _ _
    dsimp only
    have hslot : KeepsPlace s (match r.slot with
        | none => s
        | some i => s.updateSlot i KeySlot.dropReference) := by
      cases r.slot with
      | none => exact .refl s
      | some i => exact (updateSlot_keysOnly s i _).keepsPlace
    have hfree := hslot.trans (updateParcel_keepsPlace _ w p fun _ => ParcelRecord.blank)
    split
    · exact hfree.trans (keepsPlace_of rfl rfl rfl)
    · exact hfree
  · exact .refl s

theorem openParcel_keepsPlace {s t : State} {w : WindowIndex} {p : Nat} {c : Ctx} {owner : Owner}
    (h : s.openParcel w p c owner = some t) : KeepsPlace s t := by
  unfold State.openParcel at h
  split at h
  · cases h
  · rename_i i _
    injection h with h
    rw [← h]
    exact (updateParcel_keepsPlace s w p _).trans
      ((updateSlot_keysOnly _ i _).trans (afterOpen_keysOnly _ c i)).keepsPlace

theorem tag_keepsPlace (s : State) (x : TagEngine) : KeepsPlace s { s with tag := x } :=
  keepsPlace_of rfl rfl rfl

theorem setPhase_keepsPlace (s : State) (x : ComposerPhase) : KeepsPlace s (s.setPhase x) :=
  keepsPlace_of rfl rfl rfl

theorem giveEntry_keepsPlace (s : State) : KeepsPlace s s.giveEntry := by
  unfold State.giveEntry
  split
  · split
    · exact (tag_keepsPlace s _).trans
        ((updateParcel_keepsPlace _ _ _ _).trans (tag_keepsPlace _ _))
    · split
      · exact .refl s
      · exact (tag_keepsPlace s _).trans
          (((updateParcel_keepsPlace _ _ _ _).trans (setPhase_keepsPlace _ _)).trans
            (tag_keepsPlace _ _))
  · exact .refl s

theorem giveEntries_keepsPlace : ∀ (n : Nat) (s : State), KeepsPlace s (State.giveEntries n s)
  | 0, s => .refl s
  | n + 1, s => (giveEntry_keepsPlace s).trans (giveEntries_keepsPlace n _)

theorem beginJob_keepsPlace (s : State) (j : Job) (e : Window) (r : ParcelRecord) :
    KeepsPlace s (s.beginJob j e r) := by
  unfold State.beginJob
  cases j.kind <;> exact keepsPlace_of rfl rfl rfl

theorem startNext_keepsPlace (s : State) : KeepsPlace s s.startNext := by
  unfold State.startNext
  split
  · dsimp only
    split
    · exact (tag_keepsPlace s _).trans (beginJob_keepsPlace _ _ _ _)
    · exact tag_keepsPlace s _
  · exact .refl s

theorem tagSettle_keepsPlace (s : State) : KeepsPlace s s.tagSettle :=
  ((giveEntries_keepsPlace 17 s).trans (startNext_keepsPlace _)).trans (giveEntries_keepsPlace 17 _)

theorem offerCheck_keepsPlace (s : State) (w : WindowIndex) (p : Nat) :
    KeepsPlace s (s.offerCheck w p) := by
  unfold State.offerCheck
  split
  · exact (tag_keepsPlace s _).trans (tagSettle_keepsPlace _)
  · exact (updateParcel_keepsPlace s w p _).trans (tag_keepsPlace _ _)

theorem place_keepsPlace (s : State) (a : Nat) (x : Access) (l : List Byte) :
    KeepsPlace s (s.place a x l).1 := by
  unfold State.place
  split
  · exact .refl s
  · exact keepsPlace_of rfl rfl rfl

theorem takeWindowPiece_keepsPlace (s : State) (side : Alias) (w : WindowIndex) (e : Window)
    (p : Nat) (q : ParcelRecord) (c : Cut) :
    KeepsPlace s (s.takeWindowPiece side w e p q c).1 := by
  unfold State.takeWindowPiece
  dsimp only
  split
  case h_1 => exact keepsPlace_of rfl rfl rfl
  case h_2 => exact place_keepsPlace s _ _ _
  case h_3 =>
    split
    · exact keepsPlace_of rfl rfl rfl
    · rename_i t ht
      exact (openParcel_keepsPlace ht).trans (place_keepsPlace t _ _ _)
  case h_4 => exact place_keepsPlace s _ _ _
  case h_5 => exact place_keepsPlace s _ _ _
  case h_6 => exact (place_keepsPlace s _ _ _).trans (freeParcel_keepsPlace _ w p)
  case h_7 => exact (place_keepsPlace s _ _ _).trans (updateParcel_keepsPlace _ w p _)
  case h_8 =>
    exact ((place_keepsPlace s _ _ _).trans (updateParcel_keepsPlace _ w p _)).trans
      (offerCheck_keepsPlace _ w p)

/-! ### The parcel an address lies in -/

theorem locate_layout {s t : State} (h : t.layout = s.layout) (a : Nat) :
    t.locate a = s.locate a := by
  unfold State.locate
  congr 1
  funext w
  have hw := congrFun h w
  unfold State.layout at hw
  cases hs : s.window w with
  | none =>
    rw [hs] at hw
    rw [Option.map_eq_none_iff.mp hw]
  | some e =>
    rw [hs] at hw
    obtain ⟨f, hf, heq⟩ := Option.map_eq_some_iff.mp hw
    injection heq with hbase heq
    injection heq with hcount _
    rw [hf]
    dsimp only
    rw [hbase, hcount]

/-- Addresses of one block lie in one parcel, or in none. -/
theorem locate_block {s : State} (h : WindowsLaidOut s) {a b : Nat} (hab : a / 2048 = b / 2048) :
    s.locate a = s.locate b := by
  unfold State.locate
  congr 1
  funext w
  cases he : s.window w with
  | none => rfl
  | some e =>
    obtain ⟨hbase, -⟩ := (h w e he).1
    have hin : (e.base ≤ a ∧ a < e.base + 2048 * e.count) ↔
        (e.base ≤ b ∧ b < e.base + 2048 * e.count) := by omega
    have hparcel : e.base ≤ b → (a - e.base) / 2048 = (b - e.base) / 2048 := by omega
    dsimp only
    simp only [hin]
    split
    · rw [hparcel (by omega)]
    · rfl

theorem locate_some {s : State} {a p : Nat} {w : WindowIndex} (h : s.locate a = some (w, p)) :
    ∃ e, s.window w = some e ∧ e.base ≤ a ∧ a < e.base + 2048 * e.count ∧
      p = (a - e.base) / 2048 := by
  obtain ⟨v, -, hv⟩ := List.exists_of_findSome?_eq_some h
  cases he : s.window v with
  | none =>
    rw [he] at hv
    cases hv
  | some e =>
    rw [he] at hv
    dsimp only at hv
    split at hv
    · rename_i hin
      injection hv with hv
      injection hv with hvw hvp
      subst hvw
      exact ⟨e, he, hin.1, hin.2, hvp.symm⟩
    · cases hv

/-- s has a record for parcel p of window w. -/
def HasParcel (s : State) (w : WindowIndex) (p : Nat) : Prop :=
  ∃ e q, s.window w = some e ∧ s.parcel w p = some q

theorem hasParcel_iff {s : State} {w : WindowIndex} {p : Nat} :
    HasParcel s w p ↔ ∃ x ∈ s.layout w, p < x.2.2 := by
  unfold HasParcel State.parcel State.layout
  cases he : s.window w with
  | none => simp
  | some e => simp [← Option.isSome_iff_exists]

theorem hasParcel_keeps {s t : State} {w : WindowIndex} {p : Nat} (h : KeepsPlace s t)
    (hp : HasParcel s w p) : HasParcel t w p := by
  rw [hasParcel_iff] at hp ⊢
  rwa [h.1]

theorem hasParcel_of_locate {s : State} (h : WindowsLaidOut s) {w : WindowIndex} {a p : Nat}
    (hl : s.locate a = some (w, p)) : HasParcel s w p := by
  obtain ⟨e, he, hlo, hhi, hp⟩ := locate_some hl
  obtain ⟨-, -, -, -, hlen, -⟩ := (h w e he).1
  rw [hasParcel_iff]
  refine ⟨_, by rw [State.layout, he]; rfl, ?_⟩
  show p < e.parcels.length
  omega

theorem takePiece_window {s : State} {side : Alias} {w : WindowIndex} {e : Window} {p : Nat}
    {q : ParcelRecord} {c : Cut} (hc : c.address < controlBase)
    (hl : s.locate c.address = some (w, p)) (he : s.window w = some e)
    (hq : s.parcel w p = some q) : s.takePiece side c = s.takeWindowPiece side w e p q c := by
  rw [State.takePiece, if_neg (Nat.not_le.mpr hc), hl]
  dsimp only
  rw [he, hq]

/-- The pieces of a request in one parcel are taken as the statement says. -/
theorem takePieces_tookEach {side : Alias} {w : WindowIndex} {p : Nat} :
    ∀ (cuts : List Cut) (s : State), HasParcel s w p →
    (∀ c ∈ cuts, c.address < controlBase ∧ s.locate c.address = some (w, p)) →
    s.takePieces side cuts = s.tookEach side w p cuts ∧
      (s.tookEach side w p cuts).2.length = cuts.length ∧
      KeepsPlace s (s.tookEach side w p cuts).1
  | [], s, _, _ => ⟨rfl, rfl, .refl s⟩
  | c :: rest, s, hp, h => by
    obtain ⟨hctl, hl⟩ := h c List.mem_cons_self
    obtain ⟨e, q, he, hq⟩ := id hp
    have hkeeps := takeWindowPiece_keepsPlace s side w e p q c
    obtain ⟨h1, h2, h3⟩ := takePieces_tookEach rest (s.takeWindowPiece side w e p q c).1
      (hasParcel_keeps hkeeps hp) fun d hd =>
        ⟨(h d (List.mem_cons_of_mem c hd)).1,
          (locate_layout hkeeps.1 _).trans (h d (List.mem_cons_of_mem c hd)).2⟩
    have htook : s.tookEach side w p (c :: rest) =
        (((s.takeWindowPiece side w e p q c).1.tookEach side w p rest).1,
          (s.takeWindowPiece side w e p q c).2 ::
            ((s.takeWindowPiece side w e p q c).1.tookEach side w p rest).2) := by
      rw [State.tookEach, he, hq]
    rw [htook]
    refine ⟨?_, by simp [h2], hkeeps.trans h3⟩
    rw [State.takePieces, takePiece_window hctl hl he hq, h1]

/-! ### The step of a request to a parcel -/

/-- No request outside the control window is a receipt. -/
theorem isReceipt_open {r : Request} {parts : List Part} (hwf : r.wellFormed = true)
    (hw : Request.refusedWhole r = none) (hc : Request.isControl r = false)
    (hl : parts.length ≤ Request.pieceCount r) :
    Taken.isReceipt { request := r, parts := parts } = false := by
  have hpost : (parts.zipIdx.any fun x => x.1.ok && Request.coversPost r x.2) = false := by
    refine List.any_eq_false.mpr fun x hx => ?_
    have hlt : x.2 < Request.pieceCount r :=
      (List.snd_lt_of_mem_zipIdx hx).trans_le (by simpa using hl)
    have hmem : Request.piece r x.2 ∈ Request.pieces r :=
      List.mem_map.mpr ⟨x.2, List.mem_range.mpr hlt, rfl⟩
    have hlow : ¬controlBase ≤ (Request.piece r x.2).address := fun h => by
      rw [pieces_control hwf hw hmem, hc] at h
      cases h
    have hin := pieces_inside hwf hw hmem
    have hcross := (refusedWhole_none hw).2
    have hn := wellFormed_count hwf
    have hpast : ¬(postAddress + 4 ≤ (Request.piece r x.2).address +
        (Request.piece r x.2).access.count) := by
      unfold postAddress controlBase at *
      omega
    simp [Request.coversPost, hpast]
  simp [Taken.isReceipt, hpost]

section Window

variable {s : State} {r : Request} {side : Alias} {w : WindowIndex} {p : Nat}

/-- A request in one parcel: how its pieces stand, and the state they leave. -/
theorem takeRequest_window (hl : WindowsLaidOut s) (hwf : r.wellFormed = true)
    (hw : Request.refusedWhole r = none) (hc : Request.isControl r = false)
    (ha : aliasOf r.offset = some side) (hloc : s.locate (r.offset % 16777216) = some (w, p)) :
    s.takeRequest r = (s.tookEach side w p (Request.pieces r)).1.withTaken r
        (s.tookEach side w p (Request.pieces r)).2 ∧
      (s.tookEach side w p (Request.pieces r)).2.length = Request.pieceCount r ∧
      KeepsPlace s (s.tookEach side w p (Request.pieces r)).1 := by
  obtain ⟨h1, h2, h3⟩ := takePieces_tookEach (side := side) (Request.pieces r) s
    (hasParcel_of_locate hl hloc) fun c hmem => by
      refine ⟨?_, (locate_block hl (pieces_inside hwf hw hmem).2.2.2).trans hloc⟩
      by_contra hlow
      rw [Nat.not_lt, pieces_control hwf hw hmem, hc] at hlow
      cases hlow
  exact ⟨takeRequest_pieces hw ha h1, h2.trans (pieces_length r), h3⟩

theorem unanswered_behind {b : State} {parts : List Part} (h : Unanswered b)
    (ho : b.path.outstanding ≠ []) : Unanswered (b.withTaken r parts) := by
  intro x hx
  refine h x ?_
  cases hb : b.path.outstanding with
  | nil => exact absurd hb ho
  | cons y rest =>
    rw [State.withTaken, hb] at hx
    exact hx

/-- The step of a request whose pieces are taken as they may be, and that is not answered
yet. -/
theorem arrive_handsOn_waits {b : State} {parts : List Part} (hs : Quiet s) (h : Ready s r)
    (ht : s.takeRequest r = b.withTaken r parts) (hb : KeepsPlace s b)
    (hwait : parts.all Part.done = false ∨ s.path.outstanding ≠ []) :
    HandsOn (b.withTaken r parts) (s.arrive r) := by
  have hbu : Unanswered b := fun x hx => h.2.2.1 x (hb.2.2 ▸ hx)
  have hu : Unanswered (b.withTaken r parts) := by
    rcases hwait with hw | hw
    · exact unanswered_withTaken hbu hw
    · exact unanswered_behind hbu (hb.2.2 ▸ hw)
  rw [arrive_ready_waits hs h (ht ▸ hu), ht]
  exact finish_handsOn (hb.2.1.trans hs.1)

/-- The same where it is answered at once. -/
theorem arrive_handsOn_answered {b : State} {parts : List Part} (hs : Quiet s) (h : Ready s r)
    (ht : s.takeRequest r = b.withTaken r parts) (hb : KeepsPlace s b)
    (hdone : parts.all Part.done = true) (ho : s.path.outstanding = [])
    (hx : Taken.isReceipt { request := r, parts := parts } = false) :
    HandsOn (b.answered r (parts.all Part.ok)
      (if r.access.isWrite then [] else (parts.map Part.data).flatten)) (s.arrive r) := by
  have hbo : b.path.outstanding = [] := hb.2.2.trans ho
  have h1 : HandsOn (b.withTaken r parts) (s.takeRequest r).finish :=
    ht ▸ finish_handsOn (b := b.withTaken r parts) (hb.2.1.trans hs.1)
  have hone : (s.takeRequest r).finish.path.outstanding = [{ request := r, parts := parts }] := by
    rw [finish_keeps, ht, State.withTaken, hbo]
    rfl
  have hbase : b.answered r (parts.all Part.ok)
      (if r.access.isWrite then [] else (parts.map Part.data).flatten) =
      (b.withTaken r parts).fronted b.path.port b.path.passing [] b.path.nextSerial
        (b.responses ++ [Taken.response { request := r, parts := parts }]) := by
    unfold State.answered State.fronted State.withTaken
    dsimp only
    rw [← hbo]
    rfl
  rw [hbase]
  intro hq
  obtain ⟨e1, ⟨e2, -⟩, -⟩ := h1 fun k hk =>
    (noticeCalled_congr (told_fronted k)).symm.trans (hq k hk)
  have hport : (s.takeRequest r).finish.path.port = b.path.port := by rw [e2]; rfl
  have hpassing : (s.takeRequest r).finish.path.passing = b.path.passing := by rw [e2]; rfl
  have hserial : (s.takeRequest r).finish.path.nextSerial = b.path.nextSerial := by rw [e2]; rfl
  have hresp : (s.takeRequest r).finish.responses = b.responses := by rw [e1]; rfl
  have hrun := arrive_ready hs.1 h.1 h.2.1 (ready_room h) (ready_control h)
  rw [answer_one hone hdone hx, hport, hpassing, hserial, hresp] at hrun
  rw [hrun]
  exact handsOn_finish (handsOn_fronted h1) hq

end Window

/-! ### What each decision does to a piece (R23, R45, R47) -/

section Piece

variable {s : State} {side : Alias} {w : WindowIndex} {e : Window} {p : Nat} {q : ParcelRecord}
  {c : Cut}

/-- The decision about a piece. -/
def decisionOf (side : Alias) (e : Window) (q : ParcelRecord) (c : Cut) : Decision :=
  decideAccess side e.direction e.role (decide ((c.address - e.base) % 2048 / 32 = 0))
    c.access.isWrite q.state (isReleaseWrite ((c.address - e.base) % 2048 % 32)
      (Access.bytes c.access))
    (isMarkerWrite ((c.address - e.base) % 2048 % 32) (Access.bytes c.access))

/-- The keystream of a piece, under the slot and sequence of its parcel in s. -/
def State.pieceKeystream (s : State) (w : WindowIndex) (e : Window) (p : Nat) (c : Cut) :
    List Byte :=
  s.parcelKeystream w p ((c.address - e.base) % 2048 / 32) ((c.address - e.base) % 2048 % 32)
    c.access.count

/-- A piece carried out as decided. -/
def State.carryOut (s : State) (w : WindowIndex) (e : Window) (p : Nat) (c : Cut) :
    Decision → State × Part
  | .refused reason =>
    (s.reportRefusal (windowCounter w) reason (some p), .notServed c.access.count)
  | .passes => s.place c.address c.access []
  | .opens =>
    match s.openParcel w p e.context .controller with
    | none => (s.reportRefusal (windowCounter w) .noKey (some p), .notServed c.access.count)
    | some t => t.place c.address (encipherAccess c.access (t.pieceKeystream w e p c)) []
  | .enciphered => s.place c.address (encipherAccess c.access (s.pieceKeystream w e p c)) []
  | .deciphered => s.place c.address c.access (s.pieceKeystream w e p c)
  | .releases =>
    ((s.place c.address c.access []).1.freeParcel w p, (s.place c.address c.access []).2)
  | .arrives =>
    ((s.place c.address c.access []).1.updateParcel w p fun x => { x with state := .arriving },
      (s.place c.address c.access []).2)
  | .marks =>
    (((s.place c.address c.access []).1.updateParcel w p
        fun x => { x with state := .checking }).offerCheck w p,
      (s.place c.address c.access []).2)

theorem takeWindowPiece_eq {outcome : Decision} (h : decisionOf side e q c = outcome) :
    s.takeWindowPiece side w e p q c = s.carryOut w e p c outcome := by
  unfold decisionOf at h
  unfold State.takeWindowPiece
  dsimp only
  rw [h]
  cases outcome <;> rfl

theorem applyKeystreamEnabled_isNone : ∀ (bytes : List (Option Byte)) (l : List Byte),
    (applyKeystreamEnabled bytes l).all Option.isNone = bytes.all Option.isNone
  | [], _ => rfl
  | b :: rest, [] => by
    rw [applyKeystreamEnabled, List.all_cons, List.all_cons, applyKeystreamEnabled_isNone rest]
  | none :: rest, _ :: ks => applyKeystreamEnabled_isNone rest ks
  | some _ :: _, _ :: _ => rfl

/-- Enciphering leaves which bytes are enabled. -/
theorem encipherAccess_allClear (x : Access) (l : List Byte) :
    Access.allClear (encipherAccess x l) = Access.allClear x := by
  cases x with
  | read n => rfl
  | write bytes => exact applyKeystreamEnabled_isNone bytes l

/-- s with one more piece in the passing stream. -/
def State.placed (s : State) (a : Nat) (x : Access) (l : List Byte) : State :=
  { s with path := { s.path with
      nextSerial := s.path.nextSerial + 1,
      passing := s.path.passing ++
        [{ serial := s.path.nextSerial, address := a, access := x, keystream := l }] } }

theorem place_eq {a : Nat} {x : Access} (h : Access.allClear x = false) (l : List Byte) :
    s.place a x l = (s.placed a x l, .waiting) := by
  rw [State.place, if_neg (by simp [h])]
  rfl

theorem place_enciphered (h : Access.allClear c.access = false) (l : List Byte) (t : State) :
    t.place c.address (encipherAccess c.access l) [] =
      (t.placed c.address (encipherAccess c.access l) [], .waiting) :=
  place_eq ((encipherAccess_allClear _ _).trans h) []

/-- A record changes beside the passing stream. -/
theorem updateParcel_placed (s : State) (a : Nat) (x : Access) (l : List Byte)
    (f : ParcelRecord → ParcelRecord) :
    (s.placed a x l).updateParcel w p f = (s.updateParcel w p f).placed a x l := by
  unfold State.updateParcel
  rw [show (s.placed a x l).window w = s.window w from rfl]
  cases s.window w <;> rfl

theorem updateSlot_placed (s : State) (a : Nat) (x : Access) (l : List Byte) (i : SlotId)
    (f : KeySlot → KeySlot) :
    (s.placed a x l).updateSlot i f = (s.updateSlot i f).placed a x l := by
  unfold State.updateSlot
  split <;> rfl

theorem freeParcel_placed (s : State) (a : Nat) (x : Access) (l : List Byte) :
    (s.placed a x l).freeParcel w p = (s.freeParcel w p).placed a x l := by
  unfold State.freeParcel
  rw [show (s.placed a x l).window w = s.window w from rfl,
    show (s.placed a x l).parcel w p = s.parcel w p from rfl]
  cases s.window w with
  | none => rfl
  | some e =>
    cases s.parcel w p with
    | none => rfl
    | some q =>
      dsimp only
      cases q.slot with
      | none =>
        dsimp only
        rw [updateParcel_placed]
        split <;> rfl
      | some i =>
        dsimp only
        rw [updateSlot_placed, updateParcel_placed]
        split <;> rfl

theorem updateParcel_windows (s : State) (f : ParcelRecord → ParcelRecord) :
    s.updateParcel w p f = { s with windows := (s.updateParcel w p f).windows } := by
  unfold State.updateParcel
  cases s.window w <;> rfl

theorem updateParcel_withKeys (s : State) (k : KeyTable) (f : ParcelRecord → ParcelRecord) :
    State.updateParcel { s with keys := k } w p f =
      { s with keys := k, windows := (s.updateParcel w p f).windows } := by
  unfold State.updateParcel
  rw [show State.window { s with keys := k } w = s.window w from rfl]
  cases s.window w <;> rfl

theorem updateSlot_keys (s : State) (i : SlotId) (f : KeySlot → KeySlot) :
    s.updateSlot i f = { s with keys := (s.updateSlot i f).keys } := by
  unfold State.updateSlot
  split <;> rfl

/-- A parcel that goes FREE (R19); a NOTICE parcel is reported to the composer. -/
theorem freeParcel_eq (he : s.window w = some e) (hq : s.parcel w p = some q) :
    ∃ x, s.freeParcel w p =
      { s.withoutParcel w p q with transit := { s.transit with examine := x } } := by
  have hnote : ∀ t : State, t = { s.withoutParcel w p q with transit := s.transit } →
      ∃ x, (if e.role = .notice then t.noteExamination else t) =
        { s.withoutParcel w p q with transit := { s.transit with examine := x } } := by
    rintro _ rfl
    by_cases hn : e.role = .notice
    · exact ⟨true, if_pos hn⟩
    · exact ⟨s.transit.examine, if_neg hn⟩
  unfold State.freeParcel
  rw [he, hq]
  dsimp only
  refine hnote _ ?_
  unfold State.withoutParcel State.withParcel
  dsimp only
  cases q.slot with
  | none => exact updateParcel_windows s _
  | some i =>
    dsimp only
    rw [updateSlot_keys s i, updateParcel_withKeys]
    rfl

/-- A change of a record gives it a value. -/
theorem updateParcel_const (hq : s.parcel w p = some q) (f : ParcelRecord → ParcelRecord) :
    s.updateParcel w p f = s.withParcel w p (f q) := by
  rw [updateParcel_windows, State.withParcel]
  congr 1
  unfold State.parcel at hq
  unfold State.updateParcel
  cases he : s.window w with
  | none => rfl
  | some e =>
    rw [he] at hq
    dsimp only at hq ⊢
    have hmodify : e.parcels.modify p f = e.parcels.modify p fun _ => f q := by
      refine List.ext_getElem? fun k => ?_
      rw [List.getElem?_modify, List.getElem?_modify]
      split
      · rename_i hk
        rw [← hk, hq]
        rfl
      · rfl
    rw [hmodify]

end Piece

/-! ### Requests of one piece in a parcel -/

section OnePiece

variable {s : State} {r : Request} {side : Alias} {w : WindowIndex} {e : Window} {p : Nat}
  {q : ParcelRecord}

/-- The one piece of a request. -/
def Request.onlyPiece (r : Request) : Cut :=
  { address := r.offset % 16777216, access := r.access }

theorem takeRequest_onePiece {t : State} {part : Part} (h : OnePiece s r side w e p q)
    (ht : s.takeWindowPiece side w e p q (Request.onlyPiece r) = (t, part)) :
    s.takeRequest r = t.withTaken r [part] := by
  obtain ⟨hwf, hw, hc, hone, ha, hl, he, hq⟩ := h
  have hpieces : Request.pieces r = [Request.onlyPiece r] := pieces_single hone
  refine takeRequest_pieces hw ha ?_
  rw [hpieces]
  refine takePieces_single ((takePiece_window ?_ hl he hq).trans ht)
  by_contra hlow
  rw [Nat.not_lt, pieces_control hwf hw (by rw [hpieces]; exact List.mem_singleton_self _), hc]
    at hlow
  cases hlow

theorem arrive_onePiece_refused {reason : RefusalReason} (hs : Quiet s) (hr : Ready s r)
    (ho : s.path.outstanding = []) (h : OnePiece s r side w e p q)
    (ht : s.takeWindowPiece side w e p q (Request.onlyPiece r) =
      (s.reportRefusal (windowCounter w) reason (some p), .notServed r.access.count)) :
    EndsRefused (s.answered r false (Request.zeros r)) (s.arrive r) (windowCounter w) 1 reason
      (some p) := by
  have htaken := takeRequest_onePiece h ht
  obtain ⟨hwf, hw, hc, hone, -⟩ := h
  have hends := arrive_allRefused (x := windowCounter w) (reason := reason) (parcel := some p)
    hs hwf hr.1 hr.2.1 (ready_room hr) (ready_control hr) ho (by
      rw [htaken, pieces_single hone, hone]
      rfl)
  rwa [hone] at hends

/-- Settles O23. -/
theorem refusedPieces : Obligations.RefusedPieces := by
  intro s r side w e p q reason hs hr ho h hout
  refine ⟨_, exec_upstreamRequest h.1 s, arrive_onePiece_refused hs hr ho h ?_⟩
  rcases hout with hout | ⟨hout, hslot, rfl⟩
  · exact takeWindowPiece_eq (outcome := .refused reason) hout
  · rw [takeWindowPiece_eq (show decisionOf side e q (Request.onlyPiece r) = .opens from hout),
      State.carryOut, State.openParcel, hslot]
    rfl

/-- The step of a request of one piece that is placed: b, with the request waiting. -/
theorem arrive_onePiece_placed {b : State} {a : Nat} {x : Access} {l : List Byte} {i : Bool}
    (hs : Quiet s) (hr : Ready s r) (h : OnePiece s r side w e p q)
    (hb : b.mode = .running) (hpath : b.path = s.path)
    (ht : s.takeWindowPiece side w e p q (Request.onlyPiece r) =
      ((b.handing [] i).placed a x l, .waiting)) :
    EndsAs (b.waitsFor r
      [{ serial := s.path.nextSerial, address := a, access := x, keystream := l }] [.waiting])
      (s.arrive r) [] [] := by
  refine arrive_waiting hs hr hb ⟨i, ?_⟩ ?_
  · rw [takeRequest_onePiece h ht]
    unfold State.handing State.placed State.withTaken State.waitsFor
    dsimp only
    rw [hpath]
    rfl
  · have hu : Unanswered b := by
      unfold Unanswered
      rw [hpath]
      exact hr.2.2.1
    exact unanswered_withTaken (s := { b with path := { b.path with
      passing := _, nextSerial := _ } }) hu rfl

end OnePiece

/-- Settles O22. The pieces of a request in one parcel are decided one by one; one piece is
carried out as its decision says, and a request of one piece waits for it. -/
theorem windowPieces : Obligations.WindowPieces := by
  refine ⟨fun s r side w p hs hr hl hwf hw hc ha hloc => ?many, ?one⟩
  case many =>
    intro taken b parts
    obtain ⟨ht, hlen, hkeeps⟩ := takeRequest_window hl hwf hw hc ha hloc
    refine ⟨hlen, fun hwait => ⟨_, exec_upstreamRequest hwf s, ?_⟩,
      fun hdone ho => ⟨_, exec_upstreamRequest hwf s, ?_⟩⟩
    · have h := arrive_handsOn_waits hs hr ht hkeeps hwait
      rw [State.withTaken, hkeeps.2.2] at h
      exact h
    · exact arrive_handsOn_answered hs hr ht hkeeps hdone ho (isReceipt_open hwf hw hc hlen.le)
  case one =>
    intro s side w e p q c outcome hclear start line ks placed enciphered plain hout
    have hpiece := takeWindowPiece_eq (s := s) (w := w) (p := p)
      (show decisionOf side e q c = outcome from hout)
    refine ⟨?_, fun r hs hr h hcut => ?_⟩
    · rw [hpiece]
      cases outcome with
      | refused reason => rfl
      | passes => exact place_eq hclear []
      | opens =>
        unfold State.carryOut
        dsimp only
        cases s.openParcel w p e.context .controller with
        | none => rfl
        | some t => exact place_enciphered hclear _ t
      | enciphered => exact place_enciphered hclear _ s
      | deciphered => exact place_eq hclear _
      | releases => rw [State.carryOut, place_eq hclear]; rfl
      | arrives => rw [State.carryOut, place_eq hclear]; rfl
      | marks => rw [State.carryOut, place_eq hclear]; rfl
    · have hc : Request.onlyPiece r = c := hcut.symm
      rw [← hc] at hpiece hclear
      have hquiet := settled_handing hs.2
      subst hcut
      refine ⟨fun ho => ⟨_, exec_upstreamRequest h.1 s, ?passes⟩,
        fun ho bytes hwrite => ⟨_, exec_upstreamRequest h.1 s, ?enciphered⟩,
        fun ho => ⟨_, exec_upstreamRequest h.1 s, ?deciphered⟩,
        fun ho => ⟨_, exec_upstreamRequest h.1 s, ?releases⟩,
        fun ho => ⟨_, exec_upstreamRequest h.1 s, ?arrives⟩⟩
      all_goals subst ho
      case passes =>
        refine arrive_onePiece_placed (i := false) hs hr h hs.1 rfl ?_
        rw [hpiece, ← hquiet]
        exact place_eq hclear []
      case enciphered =>
        refine arrive_onePiece_placed (i := false) hs hr h hs.1 rfl ?_
        rw [hpiece, ← hquiet]
        refine (place_enciphered hclear _ s).trans ?_
        rw [show (Request.onlyPiece r).access = _ from hwrite]
        rfl
      case deciphered =>
        refine arrive_onePiece_placed (i := false) hs hr h hs.1 rfl ?_
        rw [hpiece, ← hquiet]
        exact place_eq hclear _
      case releases =>
        obtain ⟨i, hi⟩ := freeParcel_eq h.2.2.2.2.2.2.1 h.2.2.2.2.2.2.2
        refine arrive_onePiece_placed (b := s.withoutParcel w p q) (i := i) hs hr h hs.1 rfl ?_
        rw [hpiece, State.carryOut, place_eq hclear]
        dsimp only
        rw [freeParcel_placed, hi, hs.2]
        rfl
      case arrives =>
        refine arrive_onePiece_placed (b := s.withParcel w p { q with state := .arriving })
          (i := false) hs hr h hs.1 rfl ?_
        rw [hpiece, State.carryOut, place_eq hclear]
        dsimp only
        rw [updateParcel_placed, updateParcel_const h.2.2.2.2.2.2.2]
        exact congrArg (fun t : State => (t.placed _ _ _, Part.waiting)) (settled_handing hs.2)

end Sys2Proof.Machine
end

section
/-! PROOFS. The tag engine: how its jobs are offered, started and ended (R58 to R62). -/

namespace Sys2Proof.Machine

/-! ### A window and a record after a change of a record -/

section Records

variable {s : State} {w : WindowIndex} {e : Window} {p : Nat} {q : ParcelRecord}

theorem window_updateParcel (he : s.window w = some e) (f : ParcelRecord → ParcelRecord) :
    (s.updateParcel w p f).window w = some { e with parcels := e.parcels.modify p f } := by
  unfold State.updateParcel
  rw [he]
  dsimp only
  rw [window_setWindow, if_pos rfl]

theorem parcel_updateParcel (hq : s.parcel w p = some q) (f : ParcelRecord → ParcelRecord) :
    (s.updateParcel w p f).parcel w p = some (f q) := by
  unfold State.parcel at hq ⊢
  cases he : s.window w with
  | none =>
    rw [he] at hq
    cases hq
  | some e =>
    rw [he] at hq
    rw [window_updateParcel he]
    simp [show e.parcels[p]? = some q from hq]

/-- A change of a record, told by the window table it starts from. -/
theorem updateParcel_from {s t : State} (h : t.windows = s.windows)
    (f : ParcelRecord → ParcelRecord) :
    t.updateParcel w p f = { t with windows := (s.updateParcel w p f).windows } := by
  have hw : t.window w = s.window w := by
    unfold State.window
    rw [h]
  unfold State.updateParcel
  rw [hw]
  cases s.window w with
  | none =>
    dsimp only
    rw [← h]
  | some e =>
    unfold State.setWindow
    dsimp only
    rw [h]

theorem updateParcel_twice (s : State) (w : WindowIndex) (p : Nat)
    (f g : ParcelRecord → ParcelRecord) :
    (s.updateParcel w p f).updateParcel w p g = s.updateParcel w p (fun x => g (f x)) := by
  cases he : s.window w with
  | none =>
    have hf : ∀ f, s.updateParcel w p f = s := fun f => by
      unfold State.updateParcel
      rw [he]
    rw [hf, hf, hf]
  | some e =>
    have hw := window_updateParcel (p := p) he f
    unfold State.updateParcel at hw ⊢
    rw [he] at hw ⊢
    dsimp only at hw ⊢
    rw [hw]
    simp [State.setWindow, List.modify_modify_eq, Function.comp_def]

end Records

/-! ### Entries of the queue, and the running job -/

section Tag

variable {s : State} {j : Job} {e : Window} {q : ParcelRecord}

theorem jobRoom_full (h : 16 ≤ s.tag.queue.length) : s.jobRoom = false := by
  simpa [State.jobRoom] using h

theorem jobRoom_free (h : s.tag.queue.length < 16) : s.jobRoom = true := by
  simpa [State.jobRoom] using h

/-- Nothing waits for an entry. -/
theorem giveEntry_nothing (hd : s.tag.deferred = []) (hw : s.tag.waitingSeal = none) :
    s.giveEntry = s := by
  unfold State.giveEntry
  rw [hd, hw]
  split <;> rfl

/-- No entry is free. -/
theorem giveEntry_full (h : 16 ≤ s.tag.queue.length) : s.giveEntry = s := by
  rw [State.giveEntry, jobRoom_full h]
  rfl

theorem giveEntries_stays (h : s.giveEntry = s) : ∀ n, State.giveEntries n s = s
  | 0 => rfl
  | n + 1 => by rw [State.giveEntries, h, giveEntries_stays h n]

theorem startNext_running (h : s.tag.running ≠ none) : s.startNext = s := by
  unfold State.startNext
  split
  · exact absurd ‹_› h
  · rfl

theorem startNext_empty (h : s.tag.queue = []) : s.startNext = s := by
  unfold State.startNext
  rw [h]
  cases s.tag.running <;> rfl

/-- A started job, and what it issues (R63, R66). -/
theorem beginJob_eq (s : State) (j : Job) (e : Window) (q : ParcelRecord) :
    s.beginJob j e q =
      State.wantAll { s with tag := { s.tag with running := some (j.started q) } }
        (j.reads e q) := by
  obtain ⟨w, p, kind, o⟩ := j
  cases kind <;> rfl

/-- The head of the queue starts when no job runs (R60). -/
theorem startNext_starts {js : List Job} (hr : s.tag.running = none) (hq : s.tag.queue = j :: js)
    (he : s.window j.window = some e) (hp : s.parcel j.window j.parcel = some q) :
    s.startNext = State.wantAll
      { s with tag := { s.tag with queue := js, running := some (j.started q) } } (j.reads e q) := by
  unfold State.startNext
  rw [hr, hq]
  dsimp only
  rw [show State.window { s with tag := { s.tag with queue := js } } j.window = some e from he,
    show State.parcel { s with tag := { s.tag with queue := js } } j.window j.parcel = some q
      from hp]
  dsimp only
  rw [beginJob_eq]

/-- Nothing waits for an entry, and no job can start. -/
theorem tagSettle_rests (hd : s.tag.deferred = []) (hw : s.tag.waitingSeal = none)
    (hr : s.tag.running ≠ none ∨ s.tag.queue = []) : s.tagSettle = s := by
  have hgive := giveEntries_stays (giveEntry_nothing hd hw)
  have hstart : s.startNext = s := hr.elim startNext_running startNext_empty
  rw [State.tagSettle, hgive, hstart, hgive]

/-- Nothing waits for an entry, and the head of the queue starts. -/
theorem tagSettle_starts {js : List Job} (hd : s.tag.deferred = []) (hw : s.tag.waitingSeal = none)
    (hr : s.tag.running = none) (hq : s.tag.queue = j :: js) (he : s.window j.window = some e)
    (hp : s.parcel j.window j.parcel = some q) :
    s.tagSettle = State.wantAll
      { s with tag := { queue := js, running := some (j.started q), deferred := [],
                        waitingSeal := none } } (j.reads e q) := by
  have hagain := giveEntries_stays (s := State.wantAll
    { s with tag := { s.tag with queue := js, running := some (j.started q) } } (j.reads e q))
    (giveEntry_nothing hd hw) 17
  rw [State.tagSettle, giveEntries_stays (giveEntry_nothing hd hw), startNext_starts hr hq he hp,
    hagain]
  dsimp only
  rw [hd, hw]

/-- A job offered to an engine at rest starts at once. -/
theorem enqueue_starts
    (ht : s.tag = { queue := [], running := none, deferred := [], waitingSeal := none })
    (he : s.window j.window = some e) (hp : s.parcel j.window j.parcel = some q) :
    (s.enqueue j).tagSettle = State.wantAll
      { s with tag := { queue := [], running := some (j.started q), deferred := [],
                        waitingSeal := none } } (j.reads e q) := by
  have hq : (s.enqueue j).tag.queue = [j] := by
    rw [State.enqueue, ht]
    rfl
  exact tagSettle_starts (s := s.enqueue j) (by rw [State.enqueue, ht]) (by rw [State.enqueue, ht])
    (by rw [State.enqueue, ht]) hq he hp

/-- A job offered while another runs waits. -/
theorem enqueue_waits (hd : s.tag.deferred = []) (hw : s.tag.waitingSeal = none)
    (hr : s.tag.running ≠ none) : (s.enqueue j).tagSettle = s.enqueue j :=
  tagSettle_rests (s := s.enqueue j) hd hw (.inl hr)

/-- The end of a job when nothing waits. -/
theorem endJob_alone {run : Option Running}
    (ht : s.tag = { queue := [], running := run, deferred := [], waitingSeal := none }) :
    s.endJob = s.withoutJob := by
  have htag : ((s.discard tagPurpose).setRunning none).tag =
      { queue := [], running := none, deferred := [], waitingSeal := none } := by
    rw [State.setRunning, State.discard, ht]
  unfold State.endJob
  rw [tagSettle_rests (by rw [htag]) (by rw [htag]) (.inr (by rw [htag]))]
  unfold State.withoutJob
  rw [← htag]
  rfl

end Tag

/-! ### The marker write (R13, R14, R59) -/

section Marker

variable {s : State} {r : Request} {side : Alias} {w : WindowIndex} {e : Window} {p : Nat}
  {q : ParcelRecord}

/-- The step of a request of one piece that is placed and issues something. -/
theorem arrive_onePiece_wanting {b : State} {a : Nat} {x : Access} {l : List Byte} {i : Bool}
    {new : List InternalRequest} (hs : Quiet s) (hr : Ready s r)
    (h : OnePiece s r side w e p q) (hb : b.mode = .running) (hpath : b.path = s.path)
    (ht : s.takeWindowPiece side w e p q (Request.onlyPiece r) =
      (((b.wantAll new).handing [] i).placed a x l, .waiting)) :
    EndsAs (b.waitsFor r
      [{ serial := s.path.nextSerial, address := a, access := x, keystream := l }] [.waiting])
      (s.arrive r) new [] := by
  refine arrive_waits hs.1 hb hr.1 hr.2.1 (ready_room hr) (ready_control hr) ?_ ?_
  · rw [takeRequest_onePiece h ht]
    unfold State.handing State.placed State.withTaken State.waitsFor State.wantAll
    dsimp only
    rw [hpath]
    rfl
  · have hu : Unanswered b := by
      unfold Unanswered
      rw [hpath]
      exact hr.2.2.1
    exact unanswered_withTaken (s := { b with path := { b.path with
      passing := _, nextSerial := _ } }) hu rfl

theorem isMarkerWrite_enabled {start : Nat} {bytes : List (Option Byte)}
    (h : isMarkerWrite start bytes = true) : Access.allClear (.write bytes) = false := by
  have h28 := congrArg (fun l : List (Option Byte) => l[0]?) (of_decide_eq_true h)
  have hsome : enabledAt start bytes 28 = some _ := Option.some.inj h28
  exact isNone_all_false (List.mem_of_getElem? (enabledAt_eq_some_iff.mp hsome).2)

/-- The job of a marker write. -/
theorem checkKind_eq (he : s.window w = some e) :
    s.checkKind w = if e.role = .renewal then .checkRenewal else .check := by
  rw [State.checkKind, he]

theorem decide_marks (hd : e.direction = .inbound) (hst : q.state = .free ∨ q.state = .arriving)
    {bytes : List (Option Byte)} {a : Nat} (hline : (a - e.base) % 2048 / 32 = 0)
    (hm : isMarkerWrite ((a - e.base) % 2048 % 32) bytes = true) :
    decisionOf .raw e q { address := a, access := .write bytes } = .marks := by
  have hm' : isMarkerWrite ((a - e.base) % 2048 % 32) (Access.bytes (.write bytes)) = true := hm
  unfold decisionOf decideAccess
  dsimp only
  rw [hd, hm', hline]
  rcases hst with h | h <;> rw [h] <;> rfl

/-- Settles O25. -/
theorem markerWrite : Obligations.MarkerWrite := by
  intro s r bytes w e p q hs hr h hbytes hd hst hline hm kind job placed parcel
  have hclear : Access.allClear r.access = false := hbytes ▸ isMarkerWrite_enabled hm
  have hpiece : s.takeWindowPiece .raw w e p q (Request.onlyPiece r) =
      (((parcel false).placed (r.offset % 16777216) r.access []).offerCheck w p, .waiting) := by
    have hmarks : decisionOf .raw e q (Request.onlyPiece r) = .marks := by
      rw [Request.onlyPiece, hbytes]
      exact decide_marks hd hst hline hm
    rw [takeWindowPiece_eq hmarks, State.carryOut,
      place_eq (x := (Request.onlyPiece r).access) hclear]
    dsimp only
    rw [updateParcel_placed]
    simp [parcel, Request.onlyPiece]
  obtain ⟨e', he, hrole, hbase⟩ : ∃ e',
      ((parcel false).placed (r.offset % 16777216) r.access []).window w = some e' ∧
        e'.role = e.role ∧ e'.base = e.base :=
    ⟨_, window_updateParcel h.2.2.2.2.2.2.1 _, rfl, rfl⟩
  obtain ⟨q', hq⟩ : ∃ q',
      ((parcel false).placed (r.offset % 16777216) r.access []).parcel w p = some q' :=
    ⟨_, parcel_updateParcel h.2.2.2.2.2.2.2 _⟩
  have hkind : ((parcel false).placed (r.offset % 16777216) r.access []).checkKind w = kind := by
    rw [checkKind_eq he, hrole]
  have hstep : ∀ (b : State) (new : List InternalRequest), b.mode = .running → b.path = s.path →
      b.transit = s.transit →
      (((parcel false).placed (r.offset % 16777216) r.access []).offerCheck w p =
        (b.wantAll new).placed (r.offset % 16777216) r.access []) →
      ∃ t, exec (.upstreamRequest r) s = .next t ∧ EndsAs (placed b) t new [] := by
    intro b new hbm hbp hbt hb
    have hpieces : s.asPieces (Request.pieces r) =
        [{ serial := s.path.nextSerial, address := r.offset % 16777216, access := r.access,
           keystream := [] }] := by
      rw [pieces_single h.2.2.2.1]
      rfl
    refine ⟨_, exec_upstreamRequest h.1 s, ?_⟩
    dsimp only [placed]
    rw [hpieces]
    refine arrive_onePiece_wanting (i := false) hs hr h hbm hbp ?_
    rw [hpiece, hb]
    have hbs : Settled (b.wantAll new) := hbt.trans hs.2
    rw [← settled_handing hbs]
  have hroom : ((parcel false).placed (r.offset % 16777216) r.access []).tag = s.tag := by
    simp [parcel, State.placed]
  have hmode : ∀ m, (parcel m).mode = .running := fun m => (updateParcel_mode ..).trans hs.1
  have hpath : ∀ m, (parcel m).path = s.path := fun m => updateParcel_path ..
  have htransit : ∀ m, (parcel m).transit = s.transit := fun m => updateParcel_transit ..
  refine ⟨fun ht => hstep _ _ (hmode false) (hpath false) (htransit false) ?starts,
    fun hrun hlen hdef hwait => hstep _ _ (hmode false) (hpath false) (htransit false) ?waits,
    fun hlen => hstep _ _ (hmode true) (hpath true) (htransit true) ?deferred⟩
  case starts =>
    unfold State.offerCheck
    rw [if_pos (jobRoom_free (by rw [hroom, ht]; decide)), hkind,
      enqueue_starts (hroom.trans ht) he hq, ht]
    have hserial : ((parcel false).placed (r.offset % 16777216) r.access []).path.nextSerial =
        s.path.nextSerial + 1 := by simp [parcel, State.placed]
    rw [hserial]
    by_cases hrenewal : e.role = .renewal
    · simp only [kind, job, if_pos hrenewal, Job.reads, headRead, hbase]
      rfl
    · simp only [kind, job, if_neg hrenewal, Job.reads, headRead, hbase]
      rfl
  case waits =>
    unfold State.offerCheck
    rw [if_pos (jobRoom_free (by rw [hroom]; exact hlen)), hkind,
      enqueue_waits (by rw [hroom]; exact hdef) (by rw [hroom]; exact hwait)
        (by rw [hroom]; exact hrun), wantAll_nil, State.enqueue, hroom]
    simp only [parcel, job, State.placed, updateParcel_path]
  case deferred =>
    unfold State.offerCheck
    rw [if_neg (by rw [jobRoom_full (by rw [hroom]; exact hlen.ge)]; decide), wantAll_nil]
    dsimp only
    rw [updateParcel_placed, updateParcel_twice]
    simp [parcel, State.placed]

end Marker

/-! ### SEAL (R9, R59) -/

section Seal

variable {s : State} {words : List Nat} {w : WindowIndex} {e : Window} {q : ParcelRecord}

theorem answerSeal_offered (hp : s.parcelArgument words = .inr (w, e, q))
    (hl : 1 ≤ argument words 3 ∧ argument words 3 ≤ 2016) (hst : q.state = .filling)
    (ho : q.owner = some .controller) (hroom : s.tag.queue.length < 16) :
    answerSeal words s = .done (((s.handOff w (argument words 2) (argument words 3)).enqueue
      { window := w, parcel := argument words 2, kind := .sealData,
        orderPoint := s.path.nextSerial }).tagSettle) := by
  rw [answerSeal, hp]
  dsimp only
  rw [if_neg (by omega), if_neg (by simp [hst, ho]), State.offerSeal, if_pos (jobRoom_free hroom)]

theorem answerSeal_busy (hp : s.parcelArgument words = .inr (w, e, q))
    (hl : 1 ≤ argument words 3 ∧ argument words 3 ≤ 2016) (hst : q.state = .filling)
    (ho : q.owner = some .controller) (hroom : 16 ≤ s.tag.queue.length) :
    answerSeal words s = { status := .busy, detail := 0, state := s } := by
  rw [answerSeal, hp]
  dsimp only
  rw [if_neg (by omega), if_neg (by simp [hst, ho]), State.offerSeal, jobRoom_full hroom]
  rfl

/-- Settles O48. -/
theorem sealCommand : Obligations.SealCommand := by
  intro s words rest w e q hs h p length hi he hp hq hst ho hlo hhi job lines windows
  have hindex : index? 8 (argument words 1) = some w := by
    rw [hi]
    exact index?_val w
  have hfound : (s.argued words rest).parcelArgument words = .inr (w, e, q) :=
    parcelArgument_found hindex he hp hq
  have hoff : (s.argued words rest).handOff w p length = { s.argued words rest with
      windows := windows } := updateParcel_from (s := s) (t := s.argued words rest) rfl _
  have hwindow : ∃ e', ((s.argued words rest).handOff w p length).window w = some e' ∧
      e'.base = e.base := ⟨_, window_updateParcel (s := s.argued words rest) he _, rfl⟩
  have hparcel := parcel_updateParcel (s := s.argued words rest) hq
    fun x => { x with state := .sealing, length := some length }
  refine ⟨fun ht => ?starts, fun hrun hlen hdef hwait => ?waits, fun hlen => ?busy⟩
  case starts =>
    refine endsCommand_wanting (x := false) h rfl (act := answerSeal) ?_ hs.1 rfl rfl
    obtain ⟨e', he', hbase⟩ := hwindow
    rw [answerSeal_offered hfound ⟨hlo, hhi⟩ hst ho (by rw [State.argued, ht]; decide),
      enqueue_starts (by rw [State.handOff, updateParcel_tag]; exact ht) he' hparcel, hoff]
    refine congrArg Answer.done ((settled_handing (by exact hs.2)).trans ?_)
    simp only [Job.reads, lineReads, hbase, ht]
    rfl
  case waits =>
    refine endsCommand_wanting (x := false) h rfl (act := answerSeal) ?_ hs.1 rfl rfl
    rw [answerSeal_offered hfound ⟨hlo, hhi⟩ hst ho hlen, enqueue_waits
      (by rw [State.handOff, updateParcel_tag]; exact hdef)
      (by rw [State.handOff, updateParcel_tag]; exact hwait)
      (by rw [State.handOff, updateParcel_tag]; exact hrun), hoff]
    exact congrArg Answer.done ((settled_handing (by exact hs.2)).trans (by rw [wantAll_nil]; rfl))
  case busy =>
    exact endsCommand_failed hs h rfl (answerSeal_busy hfound ⟨hlo, hhi⟩ hst ho hlen.ge)

end Seal

end Sys2Proof.Machine
end

section
/-! PROOFS. The checks of inbound parcels: head lines, renewal payloads, and their errors
(R66 to R76). -/

namespace Sys2Proof.Machine

/-! ### A landed state is as before, beside memory and the granted accesses -/

section Landed

variable (s : State) (r : InternalRequest) (rest : List Flight) (error : Bool)

@[simp] theorem landed_window (w : WindowIndex) :
    (s.landed r rest error).window w = s.window w := by
  simp [State.window]

@[simp] theorem landed_parcel (w : WindowIndex) (p : Nat) :
    (s.landed r rest error).parcel w p = s.parcel w p := by
  simp [State.parcel]

@[simp] theorem landed_slot (i : SlotId) : (s.landed r rest error).slot i = s.slot i := by
  simp [State.slot]

theorem landed_resolve (context generation : Nat) :
    (s.landed r rest error).resolve context generation = s.resolve context generation := by
  rw [landed_eq]
  rfl

theorem landed_jobRuns {run : Running} {e : Window} {q : ParcelRecord} (h : JobRuns s run e q) :
    JobRuns (s.landed r rest error) run e q := by
  simpa [JobRuns] using h

end Landed

/-! ### What the running job does with a result (R62, R74, R76) -/

section Result

variable {s : State} {run : Running} {e : Window} {q : ParcelRecord}
  {failed passed : Running → Window → ParcelRecord → State → State}

theorem jobResult_failed (hr : s.tag.running = some run) (he : s.window run.job.window = some e)
    (hq : s.parcel run.job.window run.job.parcel = some q) (hp : q.releasePending = false) :
    s.jobResult true failed passed = failed run e q s := by
  rw [State.jobResult, hr]
  simp only [he, hq, hp]
  rfl

theorem jobResult_passed (hr : s.tag.running = some run) (he : s.window run.job.window = some e)
    (hq : s.parcel run.job.window run.job.parcel = some q) (hp : q.releasePending = false) :
    s.jobResult false failed passed = passed run e q s := by
  rw [State.jobResult, hr]
  simp only [he, hq, hp]
  rfl

theorem jobResult_withdrawn {error : Bool} (hr : s.tag.running = some run)
    (he : s.window run.job.window = some e)
    (hq : s.parcel run.job.window run.job.parcel = some q) (hp : q.releasePending = true) :
    s.jobResult error failed passed = s.endWithdrawn run.job := by
  rw [State.jobResult, hr]
  simp only [he, hq, hp]
  rfl

end Result

section Ends

variable {s : State} {w : WindowIndex} {p : Nat} {q : ParcelRecord} {run : Option Running}

theorem withParcel_withoutJob (s : State) (w : WindowIndex) (p : Nat) (q : ParcelRecord) :
    (s.withParcel w p q).withoutJob = s.withoutJob.withParcel w p q := by
  unfold State.withParcel
  rw [updateParcel_from (s := s) (t := s.withoutJob) rfl]
  rfl

theorem withParcel_twice (s : State) (w : WindowIndex) (p : Nat) (q q' : ParcelRecord) :
    (s.withParcel w p q).withParcel w p q' = s.withParcel w p q' := by
  have h : ∀ (t : State) (q : ParcelRecord), t.withParcel w p q = t.updateParcel w p fun _ => q :=
    fun t q => (updateParcel_windows t _).symm
  rw [h, h s q, updateParcel_twice, h]

@[simp] theorem withParcel_renewal (s : State) (w : WindowIndex) (p : Nat) (q : ParcelRecord) :
    (s.withParcel w p q).renewal = s.renewal := rfl

@[simp] theorem withParcel_tag (s : State) (w : WindowIndex) (p : Nat) (q : ParcelRecord) :
    (s.withParcel w p q).tag = s.tag := rfl

theorem parcel_withParcel (hq : s.parcel w p = some q) (q' : ParcelRecord) :
    (s.withParcel w p q').parcel w p = some q' :=
  parcel_updateParcel hq _

theorem handing_withParcel (s : State) (l : List FaultEvent) (x : Bool) (w : WindowIndex) (p : Nat)
    (q : ParcelRecord) : (s.handing l x).withParcel w p q = (s.withParcel w p q).handing l x := by
  unfold State.withParcel
  rw [handing_updateParcel]
  rfl

/-- A check ends REJECTED with a record, and nothing else waits (R72, R73). -/
theorem rejectWith_alone {j : Job} {event : FaultEvent} (hs : Settled s)
    (ht : s.tag = { queue := [], running := run, deferred := [], waitingSeal := none })
    (hq : s.parcel j.window j.parcel = some q) :
    s.rejectWith j event =
      (s.withoutJob.withParcel j.window j.parcel { q with state := .rejected }).handing [event]
        false := by
  have hreject : s.reject j = s.withParcel j.window j.parcel { q with state := .rejected } :=
    updateParcel_const hq _
  rw [State.rejectWith, hreject, raise_settled (by exact hs), endJob_alone (run := run) (by exact ht),
    ← withParcel_withoutJob]
  rfl

end Ends

/-! ### Head lines (R67, R68) -/

section Head

variable {s : State}

theorem validateHead_code (lengthOk contextOk : Prop) [Decidable lengthOk] [Decidable contextOk]
    (kind : Nat) (h : HeadLine) :
    (validateHead (decide lengthOk) (decide contextOk) kind h).map MalformedReason.code =
      if ¬lengthOk then some 1
      else if ¬contextOk then some 2
      else if h.kind ≠ kind then some 3
      else if h.station ≠ 0 then some 4
      else none := by
  unfold validateHead
  simp only [Bool.not_eq_true', decide_eq_false_iff_not]
  split
  · rfl
  split
  · rfl
  split
  · rfl
  split <;> rfl

theorem validateData_code (e : Window) (h : HeadLine) :
    (validateData e h).map MalformedReason.code =
      if ¬(1 ≤ h.length ∧ h.length ≤ 2016) then some 1
      else if h.context ≠ e.context.val then some 2
      else if h.kind ≠ 1 then some 3
      else if h.station ≠ 0 then some 4
      else none :=
  validateHead_code _ _ 1 h

theorem validateRenewal_code (h : HeadLine) :
    (validateRenewal h).map MalformedReason.code =
      if h.length ≠ 64 then some 1
      else if 3 < h.context then some 2
      else if h.kind ≠ 3 then some 3
      else if h.station ≠ 0 then some 4
      else none := by
  have hcode := validateHead_code (h.length = 64) (h.context ≤ 3) 3 h
  simp only [Nat.not_le] at hcode
  exact hcode

theorem mem_usableSlots {i : SlotId} : i ∈ usableSlots ↔ i ≠ 0 := by
  revert i
  decide

theorem resolves_iff {context generation : Nat} {i : SlotId} (h : i ≠ 0) :
    s.resolves context generation i = true ↔ Resolves s context generation i := by
  unfold State.resolves Resolves
  cases hst : (s.slot i).state <;> simp [hst, h, and_assoc]

theorem resolve_none {context generation : Nat} (h : ∀ x, ¬Resolves s context generation x) :
    s.resolve context generation = none := by
  refine List.find?_eq_none.mpr fun i hi hr => ?_
  exact h i ((resolves_iff (mem_usableSlots.mp hi)).mp hr)

theorem resolve_some {context generation : Nat} {i : SlotId}
    (h : ∀ x, Resolves s context generation x ↔ x = i) : s.resolve context generation = some i := by
  have hi := (h i).mpr rfl
  unfold State.resolve
  cases hf : usableSlots.find? fun x => s.resolves context generation x with
  | none =>
    exact absurd ((resolves_iff hi.1).mpr hi) (List.find?_eq_none.mp hf i (mem_usableSlots.mpr hi.1))
  | some x =>
    have hx := (resolves_iff (mem_usableSlots.mp (List.mem_of_find?_eq_some hf))).mp
      (List.find?_some hf)
    rw [(h x).mp hx]

theorem resolve_updateParcel (w : WindowIndex) (p : Nat) (f : ParcelRecord → ParcelRecord)
    (context generation : Nat) :
    (s.updateParcel w p f).resolve context generation = s.resolve context generation := by
  rw [updateParcel_windows]
  rfl

theorem checkHead_malformed {data : List Byte} {run : Running} {e : Window} {q : ParcelRecord}
    {reason : MalformedReason} (h : validateData e (headLineOf data) = some reason) :
    checkHead data run e q s = s.rejectWith run.job
      (tagEvent .malformed run.job (some e.context.val) none reason.code 0) := by
  unfold checkHead
  dsimp only
  rw [h]

theorem checkHead_unknown {data : List Byte} {run : Running} {e : Window} {q : ParcelRecord}
    (h : validateData e (headLineOf data) = none)
    (hr : s.resolve (headLineOf data).context (headLineOf data).generation = none) :
    checkHead data run e q s =
      (s.updateParcel run.job.window run.job.parcel fun x =>
        { x with length := some (headLineOf data).length }).rejectWith run.job
        (tagEvent .unknownGeneration run.job (some e.context.val) none
          (headLineOf data).generation 0) := by
  unfold checkHead
  dsimp only
  rw [h]
  dsimp only
  rw [resolve_updateParcel, hr]

theorem checkHead_resolved {data : List Byte} {run : Running} {e : Window} {q : ParcelRecord}
    {i : SlotId} (h : validateData e (headLineOf data) = none)
    (hr : s.resolve (headLineOf data).context (headLineOf data).generation = some i) :
    checkHead data run e q s =
      (s.updateParcel run.job.window run.job.parcel fun x =>
        { x with length := some (headLineOf data).length }).resolved run e (headLineOf data) i := by
  unfold checkHead
  dsimp only
  rw [h]
  dsimp only
  rw [resolve_updateParcel, hr]

theorem renewalHead_malformed {data : List Byte} {run : Running} {e : Window} {q : ParcelRecord}
    {reason : MalformedReason} (h : validateRenewal (headLineOf data) = some reason) :
    renewalHead data run e q s = s.rejectWith run.job
      (tagEvent .malformed run.job none none reason.code 0) := by
  unfold renewalHead
  dsimp only
  rw [h]

theorem renewalHead_sound {data : List Byte} {run : Running} {e : Window} {q : ParcelRecord}
    (h : validateRenewal (headLineOf data) = none) :
    renewalHead data run e q s = State.wantAll
      ((s.updateParcel run.job.window run.job.parcel fun x =>
          { x with length := some (headLineOf data).length }).setRunning
        (some { job := run.job, head := some (headLineOf data), payload := [], linesLeft := 2 }))
      (lineReads .renewalPayload e run.job.parcel 2 run.job.orderPoint) := by
  unfold renewalHead
  dsimp only
  rw [h]
  rfl

/-- The record takes the slot and the sequence (R68, R69). -/
theorem resolved_eq {run : Running} {e : Window} {q : ParcelRecord} {h : HeadLine} {i : SlotId}
    (hq : s.parcel run.job.window run.job.parcel = some q) (hi : i ≠ 0) :
    (s.updateParcel run.job.window run.job.parcel fun x =>
        { x with length := some h.length }).resolved run e h i =
      State.wantAll
        { s.withParcel run.job.window run.job.parcel
            { q with length := some h.length, slot := some i, sequence := some h.sequence } with
          tag := { s.tag with
            running := some { job := run.job, head := some h, payload := [],
                              linesLeft := (h.length + 31) / 32 } },
          keys := { s.keys with
            slots := s.keys.slots.set i
              { s.slot i with references := (s.slot i).references + 1 } } }
        (lineReads .checkPayload e run.job.parcel ((h.length + 31) / 32) run.job.orderPoint) := by
  unfold State.resolved
  dsimp only
  rw [updateParcel_twice, updateParcel_const hq, updateSlot_eq hi]
  rfl

end Head

/-- Settles O56. -/
theorem headLinesAreChecked : Obligations.HeadLinesAreChecked := by
  intro s r rest run e q i hs hrun hp j h b rejected reads
  have hb : JobRuns b run e q := landed_jobRuns s r rest false hrun
  have hbm : b.mode = .running := (landed_mode ..).trans hs.1
  have hbs : Settled b := by simpa [Settled, b] using hs.2
  obtain ⟨htag, he, hq⟩ := hb
  have hres : ∀ failed passed, b.jobResult false failed passed = passed run e q b :=
    fun failed passed => jobResult_passed (by rw [htag]) he hq hp
  refine ⟨fun hold => ⟨fun x hx => ?malformed, fun hx hno => ?unknown, fun hx hfound => ?found⟩,
    fun hold => ⟨fun x hx => ?renewalMalformed, fun hx => ?renewal⟩⟩
  case malformed =>
    rw [← validateData_code] at hx
    obtain ⟨reason, hv, rfl⟩ := Option.map_eq_some_iff.mp hx
    refine goesTo_completion hold (d := only .checkHead) rfl rfl hbm ⟨false, ?_⟩
    rw [hres, checkHead_malformed hv, rejectWith_alone hbs htag hq]
    rfl
  case unknown =>
    rw [← validateData_code, Option.map_eq_none_iff] at hx
    refine goesTo_completion hold (d := only .checkHead) rfl rfl hbm ⟨false, ?_⟩
    rw [hres, checkHead_unknown hx ((landed_resolve ..).trans (resolve_none hno)),
      updateParcel_const hq]
    have hq' := parcel_withParcel hq { q with length := some h.length }
    rw [rejectWith_alone (run := some run) (by exact hbs) (by exact htag) hq',
      withParcel_withoutJob, withParcel_twice]
    rfl
  case found =>
    rw [← validateData_code, Option.map_eq_none_iff] at hx
    have hi : i ≠ 0 := ((hfound i).mpr rfl).1
    refine goesTo_completion_wanting hold (d := only .checkHead) rfl rfl hbm ⟨false, ?_⟩
    rw [hres, checkHead_resolved hx ((landed_resolve ..).trans (resolve_some hfound)),
      resolved_eq hq hi]
    refine (settled_handing (by exact hbs)).trans ?_
    simp only [reads, j, b, landed_tag, landed_keys, landed_slot]
    rfl
  case renewalMalformed =>
    rw [← validateRenewal_code] at hx
    obtain ⟨reason, hv, rfl⟩ := Option.map_eq_some_iff.mp hx
    refine goesTo_completion hold (d := only .renewalHead) rfl rfl hbm ⟨false, ?_⟩
    rw [hres, renewalHead_malformed hv, rejectWith_alone hbs htag hq]
    rfl
  case renewal =>
    rw [← validateRenewal_code, Option.map_eq_none_iff] at hx
    refine goesTo_completion_wanting hold (d := only .renewalHead) rfl rfl hbm ⟨false, ?_⟩
    rw [hres, renewalHead_sound hx, updateParcel_const hq]
    refine (settled_handing (by exact hbs)).trans ?_
    simp only [reads, j, b, State.setRunning, withParcel_tag, landed_tag]
    rfl

/-! ### Renewal payloads (R73, R107), and the errors of checks (R76) -/

section Payload

variable {s : State} {run : Running} {e : Window} {q : ParcelRecord} {data : List Byte}
  {h : HeadLine}

theorem checkTag_tagBy (hashKey : Nat) (key : Key) (kind : Nat) (h : HeadLine)
    (payload : List Byte) :
    checkTag hashKey key kind h payload =
      tagBy hashKey key h.context 2 h.generation h.sequence payload kind h.station h.length := rfl

theorem renewalPayload_kept (hn : 2 ≤ run.linesLeft) :
    renewalPayload data run e q s =
      s.setRunning (some { run with payload := run.payload ++ data,
                                    linesLeft := run.linesLeft - 1 }) :=
  if_neg (by omega)

theorem renewalPayload_last (hn : run.linesLeft ≤ 1) (hh : run.head = some h) :
    renewalPayload data run e q s = s.renewalEnds run.job h (run.payload ++ data) := by
  refine (if_pos hn).trans ?_
  rw [hh]

/-- What is wanted and is not discarded is still wanted. -/
theorem discard_wantAll {d : Purpose → Bool} {l : List InternalRequest}
    (h : ∀ x ∈ l, d x.purpose = false) : (s.wantAll l).discard d = (s.discard d).wantAll l := by
  have hl : l.filter (fun x => !d x.purpose) = l :=
    List.filter_eq_self.mpr fun x hx => by simp [h x hx]
  simp [State.wantAll, State.discard, List.filter_append, hl]

/-- An import starts with two reads (R108). -/
theorem startImport_starts {entry : ImportEntry} {left : List ImportEntry}
    (hi : s.renewal.importing = none) (hl : s.renewal.importList = entry :: left)
    (he : s.window entry.window = some e) :
    s.startImport = State.wantAll
      { s with renewal := { s.renewal with importing := some { data := [], readsLeft := 2 } } }
      (lineReads .importRead e entry.parcel 2 s.path.nextSerial) := by
  unfold State.startImport
  rw [hi, hl]
  dsimp only
  rw [he]
  simp only [State.want, State.wantAll, List.append_assoc]
  rfl

theorem startImport_running (hi : s.renewal.importing ≠ none) : s.startImport = s := by
  unfold State.startImport
  split
  · exact absurd ‹_› hi
  · rfl

end Payload

/-- Settles O58. -/
theorem renewalIsAdmitted : Obligations.RenewalIsAdmitted := by
  intro s r rest run e q h p c hs hrun hp j data b
  have hb : ∀ error, JobRuns (s.landed r rest error) run e q :=
    fun error => landed_jobRuns s r rest error hrun
  have hbm : ∀ error, (s.landed r rest error).mode = .running :=
    fun error => (landed_mode ..).trans hs.1
  have hbs : ∀ error, Settled (s.landed r rest error) :=
    fun error => by simpa [Settled] using hs.2
  refine ⟨fun hold hhead => ?payload, fun hold hmem => ?failed⟩
  case payload =>
    intro w tag entry admitted
    obtain ⟨htag, he, hq⟩ := hb false
    have hres : ∀ failed passed, b.jobResult false failed passed = passed run e q b :=
      fun failed passed => jobResult_passed (by rw [htag]) he hq hp
    have hends : b.renewalEnds j h data = if tag ≠ h.tag then
        b.rejectWith j (tagEvent .tagMismatch j (some h.context) (some h.generation) h.sequence 0)
        else ((b.withParcel j.window j.parcel { q with state := .admitted }).joinImportList
          entry).endJob := by
      rw [State.renewalEnds, checkTag_tagBy, updateParcel_const hq,
        show b.renewal = s.renewal from landed_renewal ..]
    refine ⟨fun hn => ?kept, fun hn hne => ?mismatch, fun hn heq hi => ?joins,
      fun hn heq hi hl => ?starts⟩
    case kept =>
      refine goesTo_completion hold (d := only .renewalPayload) rfl rfl (hbm false) ⟨false, ?_⟩
      rw [hres, renewalPayload_kept hn]
      refine (settled_handing (by exact hbs false)).trans ?_
      rw [State.setRunning, landed_tag]
    case mismatch =>
      refine goesTo_completion hold (d := only .renewalPayload) rfl rfl (hbm false) ⟨false, ?_⟩
      rw [hres, renewalPayload_last hn hhead, hends, if_pos hne, rejectWith_alone (hbs false) htag hq]
      rfl
    case joins =>
      refine goesTo_completion hold (d := only .renewalPayload) rfl rfl (hbm false) ⟨false, ?_⟩
      rw [hres, renewalPayload_last hn hhead, hends, if_neg (not_not.mpr heq), State.joinImportList,
        startImport_running (by simpa [b, State.withParcel] using hi),
        endJob_alone (run := some run) (by exact htag)]
      dsimp only [admitted]
      rw [← withParcel_withoutJob]
      refine (settled_handing (by exact hbs false)).trans ?_
      simp only [withParcel_renewal, b, landed_renewal]
      rfl
    case starts =>
      refine goesTo_completion_wanting hold (d := only .renewalPayload) rfl rfl (hbm false)
        ⟨false, ?_⟩
      rw [hres, renewalPayload_last hn hhead, hends, if_neg (not_not.mpr heq), State.joinImportList]
      have hstart : State.startImport
          { b.withParcel j.window j.parcel { q with state := .admitted } with
            renewal := { s.renewal with importList := [entry] } } =
          State.wantAll
            { b.withParcel j.window j.parcel { q with state := .admitted } with
              renewal := { s.renewal with
                importList := [entry], importing := some { data := [], readsLeft := 2 } } }
            (lineReads .importRead e j.parcel 2 b.path.nextSerial) :=
        startImport_starts
          (s := { b.withParcel j.window j.parcel { q with state := .admitted } with
            renewal := { s.renewal with importList := [entry] } })
          (entry := entry) (left := []) (e := { e with parcels := e.parcels.modify j.parcel _ })
          hi rfl
          (window_updateParcel (s := b) (w := j.window) (p := j.parcel) he
            fun _ => { q with state := .admitted })
      have hserial : b.path.nextSerial = s.path.nextSerial := by simp [b]
      rw [hserial] at hstart
      have hrenewal : { (b.withParcel j.window j.parcel { q with state := .admitted }).renewal with
          importList := (b.withParcel j.window j.parcel { q with state := .admitted }).renewal.importList
            ++ [entry] } = { s.renewal with importList := [entry] } := by
        simp only [withParcel_renewal, b, landed_renewal, hl, List.nil_append]
      rw [hrenewal, hstart, endJob_alone (run := some run) (by exact htag), State.withoutJob,
        discard_wantAll (by simp [lineReads, tagPurpose])]
      dsimp only [admitted]
      rw [← withParcel_withoutJob]
      exact settled_handing (by exact hbs false)
  case failed =>
    obtain ⟨htag, he, hq⟩ := hb true
    have hfails : ∀ passed, (s.landed r rest true).jobResult true checkFailed passed =
        ((s.landed r rest true).withoutJob.withParcel j.window j.parcel
          { q with state := .rejected }).handing
        [parcelEvent .memoryError j (some e.context.val)
          (q.slot.map fun i => (s.slot i).generation) j.kind.code 0] false := by
      intro passed
      rw [jobResult_failed (by rw [htag]) he hq hp, checkFailed, rejectWith_alone (hbs true) htag hq, State.windowContext, he, State.recordGeneration]
      simp only [landed_slot]
      rfl
    simp only [List.mem_cons, Prod.mk.injEq, List.not_mem_nil, or_false] at hmem
    rcases hmem with ⟨rfl, rfl⟩ | ⟨rfl, rfl⟩ | ⟨rfl, rfl⟩ | ⟨rfl, rfl⟩
    · exact goesTo_completion hold (d := only .checkHead) rfl rfl (hbm true) ⟨false, hfails _⟩
    · exact goesTo_completion hold (d := only .checkPayload) rfl rfl (hbm true) ⟨false, hfails _⟩
    · exact goesTo_completion hold (d := only .renewalHead) rfl rfl (hbm true) ⟨false, hfails _⟩
    · exact goesTo_completion hold (d := only .renewalPayload) rfl rfl (hbm true) ⟨false, hfails _⟩

end Sys2Proof.Machine
end

section
/-! PROOFS. RELEASE, and the end of a job whose parcel was released (R17, R74). -/

namespace Sys2Proof.Machine

/-! ### A parcel that goes FREE, beside other changes -/

section Free

variable {s t : State} {w : WindowIndex} {e : Window} {p : Nat} {q : ParcelRecord}

theorem updateSlot_keys_congr (h : t.keys = s.keys) (i : SlotId) (f : KeySlot → KeySlot) :
    (t.updateSlot i f).keys = (s.updateSlot i f).keys := by
  have hslot : t.slot i = s.slot i := by
    unfold State.slot
    rw [h]
  unfold State.updateSlot
  rw [hslot]
  split
  · exact h
  · dsimp only
    rw [h]

theorem withParcel_windows_congr (h : t.windows = s.windows) (q : ParcelRecord) :
    (t.withParcel w p q).windows = (s.withParcel w p q).windows := by
  unfold State.withParcel
  rw [updateParcel_from h]

theorem withoutParcel_keys_congr (h : t.keys = s.keys) :
    (t.withoutParcel w p q).keys = (s.withoutParcel w p q).keys := by
  unfold State.withoutParcel
  dsimp only
  cases q.slot with
  | none => exact h
  | some i => exact updateSlot_keys_congr h i _

/-- Freeing a parcel, told by the tables it starts from. -/
theorem withoutParcel_from (hw : t.windows = s.windows) (hk : t.keys = s.keys) :
    t.withoutParcel w p q = { t with
      windows := (s.withoutParcel w p q).windows, keys := (s.withoutParcel w p q).keys } := by
  rw [← withoutParcel_keys_congr hk]
  unfold State.withoutParcel
  dsimp only
  rw [← withParcel_windows_congr hw]
  rfl

theorem withoutParcel_withoutJob (s : State) (w : WindowIndex) (p : Nat) (q : ParcelRecord) :
    (s.withoutParcel w p q).withoutJob = s.withoutJob.withoutParcel w p q := by
  rw [withoutParcel_from (s := s) (t := s.withoutJob) rfl rfl]
  rfl

theorem freeParcel_handing (hs : Settled s) (he : s.window w = some e)
    (hq : s.parcel w p = some q) : ∃ x, s.freeParcel w p = (s.withoutParcel w p q).handing [] x := by
  obtain ⟨x, hx⟩ := freeParcel_eq he hq
  refine ⟨x, hx.trans ?_⟩
  rw [hs]
  rfl

end Free

/-! ### RELEASE by the parcel's state -/

section Release

variable {s : State} {words : List Nat} {w : WindowIndex} {e : Window} {p : Nat}
  {q : ParcelRecord}

/-- A parcel that a job of the controller holds. -/
abbrev Held (q : ParcelRecord) : Prop :=
  q.state = .checking ∨ q.state = .sealing ∧ q.owner = some .controller

theorem release_free
    (h : q.state = .filling ∧ q.owner = some .controller ∨ q.state = .sealed ∨
      q.state = .arriving ∨ q.state = .admitted ∧ e.role ≠ .renewal ∨ q.state = .rejected) :
    s.release w e p q = some (s.freeParcel w p) := by
  unfold State.release
  rcases h with ⟨h, ho⟩ | h | h | ⟨h, hr⟩ | h <;> rw [h]
  · exact if_pos ho
  · exact if_neg hr

theorem release_held (h : Held q) : s.release w e p q = s.releaseJob w p q := by
  unfold State.release
  rcases h with h | ⟨h, ho⟩ <;> rw [h]
  exact if_pos ho

theorem release_refused
    (h : q.state = .free ∨ q.state = .filling ∧ q.owner ≠ some .controller ∨
      q.state = .sealing ∧ q.owner ≠ some .controller ∨ Held q ∧ q.releasePending = true ∨
      q.state = .admitted ∧ e.role = .renewal) : s.release w e p q = none := by
  rcases h with h | ⟨h, ho⟩ | ⟨h, ho⟩ | ⟨h, hp⟩ | ⟨h, hr⟩
  · rw [State.release, h]
  · rw [State.release, h]
    exact if_neg ho
  · rw [State.release, h]
    exact if_neg ho
  · rw [release_held h]
    exact if_pos hp
  · rw [State.release, h]
    exact if_pos hr

theorem releaseJob_deferred (hp : q.releasePending = false) (hd : (w, p) ∈ s.tag.deferred) :
    s.releaseJob w p q = some (State.freeParcel { s with tag := { s.tag with
      deferred := s.tag.deferred.filter fun d => decide (d ≠ (w, p)) } } w p) := by
  rw [State.releaseJob, if_neg (by simp [hp]), if_pos hd]

theorem releaseJob_queued (hp : q.releasePending = false) (hd : (w, p) ∉ s.tag.deferred)
    (hq : ∃ j ∈ s.tag.queue, j.window = w ∧ j.parcel = p) :
    s.releaseJob w p q = some (State.tagSettle (State.freeParcel { s with tag := { s.tag with
      queue := s.tag.queue.filter fun j => !j.isFor w p } } w p)) := by
  have hany : s.tag.queue.any (Job.isFor w p) = true := by
    simpa [List.any_eq_true, Job.isFor] using hq
  rw [State.releaseJob, if_neg (by simp [hp]), if_neg hd, if_pos hany]

theorem releaseJob_running {run : Running} (hp : q.releasePending = false)
    (hd : (w, p) ∉ s.tag.deferred) (hq : ∀ j ∈ s.tag.queue, ¬(j.window = w ∧ j.parcel = p))
    (hr : s.tag.running = some run) (hw : run.job.window = w) (hj : run.job.parcel = p) :
    s.releaseJob w p q = some (s.withdraw run.job) := by
  have hany : ¬s.tag.queue.any (Job.isFor w p) = true := by
    simpa [List.any_eq_true, Job.isFor] using hq
  rw [State.releaseJob, if_neg (by simp [hp]), if_neg hd, if_neg hany, hr]
  exact if_pos (by simp [Job.isFor, hw, hj])

theorem answerRelease_done {t : State} (hp : s.parcelArgument words = .inr (w, e, q))
    (hr : s.release w e (argument words 2) q = some t) : answerRelease words s = .done t := by
  rw [answerRelease, hp]
  dsimp only
  rw [hr]

theorem answerRelease_refused (hp : s.parcelArgument words = .inr (w, e, q))
    (hr : s.release w e (argument words 2) q = none) :
    answerRelease words s = .refused s q.state.code := by
  rw [answerRelease, hp]
  dsimp only
  rw [hr]

/-- A released job that still waits for results keeps running, and issues no more. -/
theorem withdraw_awaits {j : Job} (h : s.awaits tagPurpose = true) :
    s.withdraw j =
      { s.updateParcel j.window j.parcel fun x => { x with releasePending := true } with
        path := { s.path with
          unissued := s.path.unissued.filter fun x => !tagPurpose x.purpose } } := by
  rw [State.withdraw]
  dsimp only
  rw [State.endWithdrawn, if_pos (by simpa [State.awaits] using h), updateParcel_path]

/-- s with the release-pending mark on the parcel of a job that issues nothing further. -/
def State.withdrawn (s : State) (w : WindowIndex) (p : Nat) (q : ParcelRecord) : State :=
  { s.withParcel w p { q with releasePending := true } with
    path := { s.path with
      unissued := s.path.unissued.filter fun x => !tagPurpose x.purpose } }

theorem withdrawn_withoutParcel (s : State) (w : WindowIndex) (p : Nat) (q : ParcelRecord) :
    (s.withdrawn w p q).withoutParcel w p { q with releasePending := true } =
      { s.withoutParcel w p q with path := (s.withdrawn w p q).path } := by
  have htwice := withParcel_twice s w p { q with releasePending := true } ParcelRecord.blank
  have hwindows : ((s.withdrawn w p q).withParcel w p ParcelRecord.blank).windows =
      (s.withParcel w p ParcelRecord.blank).windows := by
    rw [← htwice]
    exact withParcel_windows_congr (s := s.withParcel w p { q with releasePending := true })
      (t := s.withdrawn w p q) rfl _
  have hkeys : ((s.withdrawn w p q).withoutParcel w p { q with releasePending := true }).keys =
      (s.withoutParcel w p q).keys :=
    withoutParcel_keys_congr (s := s) (t := s.withdrawn w p q) (q := q) rfl
  calc (s.withdrawn w p q).withoutParcel w p { q with releasePending := true }
      = { s.withdrawn w p q with
          windows := ((s.withdrawn w p q).withParcel w p ParcelRecord.blank).windows,
          keys := ((s.withdrawn w p q).withoutParcel w p
            { q with releasePending := true }).keys } := rfl
    _ = { s.withoutParcel w p q with path := (s.withdrawn w p q).path } := by
        rw [hwindows, hkeys]
        rfl

/-- A released job that waits for nothing ends, and nothing else waits. -/
theorem withdraw_ends {j : Job} {run : Option Running} (hs : Settled s)
    (ht : s.tag = { queue := [], running := run, deferred := [], waitingSeal := none })
    (he : s.window j.window = some e) (hq : s.parcel j.window j.parcel = some q)
    (h : s.awaits tagPurpose = false) :
    ∃ x, s.withdraw j = (s.withoutJob.withoutParcel j.window j.parcel q).handing [] x := by
  have hwithdraw : s.withdraw j =
      ((s.withdrawn j.window j.parcel q).freeParcel j.window j.parcel).endJob := by
    rw [State.withdraw]
    dsimp only
    rw [State.endWithdrawn, if_neg (by simpa [State.awaits] using h), updateParcel_const hq]
    rfl
  obtain ⟨x, hx⟩ := freeParcel_handing (s := s.withdrawn j.window j.parcel q) hs
    (window_updateParcel (s := s) he _) (parcel_updateParcel (s := s) hq _)
  refine ⟨x, ?_⟩
  rw [hwithdraw, hx, endJob_alone (run := run) (by exact ht), withdrawn_withoutParcel,
    ← withoutParcel_withoutJob]
  simp only [State.withoutJob, State.discard, State.handing, State.withdrawn, List.filter_filter,
    Bool.and_self]
  rfl

end Release

/-- The results of a job whose parcel was released are dropped, and the last one ends it. -/
theorem endWithdrawn_goes {s : State} {j : Job} {run : Option Running} {e : Window}
    {q : ParcelRecord} (hs : Settled s)
    (ht : s.tag = { queue := [], running := run, deferred := [], waitingSeal := none })
    (he : s.window j.window = some e) (hq : s.parcel j.window j.parcel = some q) :
    (s.awaits tagPurpose = true → s.endWithdrawn j = s.handing [] false) ∧
      (s.awaits tagPurpose = false → ∃ x, s.endWithdrawn j =
        (s.withoutJob.withoutParcel j.window j.parcel q).handing [] x) := by
  refine ⟨fun h => ?_, fun h => ?_⟩
  · rw [State.endWithdrawn, if_pos h]
    exact settled_handing hs
  · obtain ⟨x, hx⟩ := freeParcel_handing hs he hq
    refine ⟨x, ?_⟩
    rw [State.endWithdrawn, if_neg (by simp [h]), hx, endJob_alone (run := run) (by exact ht),
      ← withoutParcel_withoutJob]
    rfl

/-- Settles O49. -/
theorem releaseCommand : Obligations.ReleaseCommand := by
  refine ⟨?results, ?commands⟩
  case results =>
    intro s r rest run e q p c error hs hold hrun hp hmem b
    obtain ⟨htag, he, hq⟩ : JobRuns b run e q := landed_jobRuns s r rest error hrun
    have hbm : b.mode = .running := (landed_mode ..).trans hs.1
    have hbs : Settled b := by simpa [Settled, b] using hs.2
    have hends := endWithdrawn_goes (j := run.job) hbs htag he hq
    have hres : ∀ failed passed, b.jobResult error failed passed = b.endWithdrawn run.job :=
      fun failed passed => jobResult_withdrawn (by rw [htag]) he hq hp
    have hstep : ∀ x : State, x.mode = .running → (∃ i, b.endWithdrawn run.job = x.handing [] i) →
        GoesTo s c x [] [] := by
      intro x hx ⟨i, hi⟩
      simp only [List.mem_cons, Prod.mk.injEq, List.not_mem_nil, or_false] at hmem
      rcases hmem with ⟨rfl, rfl⟩ | ⟨rfl, rfl⟩ | ⟨rfl, rfl⟩ | ⟨rfl, rfl⟩ | ⟨rfl, rfl⟩ | ⟨rfl, rfl⟩
      · exact goesTo_completion hold (d := only .sealRead) rfl rfl hx ⟨i, (hres _ _).trans hi⟩
      · exact goesTo_completion hold (d := only .headWrite) rfl rfl hx ⟨i, (hres _ _).trans hi⟩
      · exact goesTo_completion hold (d := only .checkHead) rfl rfl hx ⟨i, (hres _ _).trans hi⟩
      · exact goesTo_completion hold (d := only .checkPayload) rfl rfl hx ⟨i, (hres _ _).trans hi⟩
      · exact goesTo_completion hold (d := only .renewalHead) rfl rfl hx ⟨i, (hres _ _).trans hi⟩
      · exact goesTo_completion hold (d := only .renewalPayload) rfl rfl hx
          ⟨i, (hres _ _).trans hi⟩
    exact ⟨fun h => hstep b hbm ⟨false, hends.1 h⟩, fun h => hstep _ hbm (hends.2 h)⟩
  case commands =>
    intro s words rest w e q hs h p hi he hp hq freed held
    have hfound : (s.argued words rest).parcelArgument words = .inr (w, e, q) :=
      parcelArgument_found (by rw [hi]; exact index?_val w) he hp hq
    have hfreed : ∀ tag : TagEngine, ∃ x,
        State.freeParcel { s.argued words rest with tag := tag } w p =
          State.handing { freed tag with command := (s.argued words rest).command } [] x := by
      intro tag
      obtain ⟨x, hx⟩ := freeParcel_handing (s := { s.argued words rest with tag := tag })
        (w := w) (p := p) hs.2 he hq
      refine ⟨x, hx.trans ?_⟩
      rw [withoutParcel_from (s := s) (t := { s.argued words rest with tag := tag }) rfl rfl]
      rfl
    refine ⟨fun hst => ?free, fun hheld hpend hdef => ?deferred,
      fun hheld hpend hdef hwait hrun hj => ?queued,
      fun hheld hpend hdef hqueue hrun hawait => ?awaits,
      fun run hheld hpend hjob hw hj hawait => ?ends, fun hst => ?refused⟩
    case free =>
      obtain ⟨x, hx⟩ := hfreed s.tag
      exact endsCommand_of h rfl
        ⟨x, (answerRelease_done hfound (release_free hst)).trans (congrArg Answer.done hx)⟩
        hs.1 rfl rfl
    case deferred =>
      obtain ⟨x, hx⟩ := hfreed
        { s.tag with deferred := s.tag.deferred.filter fun d => decide (d ≠ (w, p)) }
      exact endsCommand_of h rfl
        ⟨x, (answerRelease_done hfound
          ((release_held hheld).trans (releaseJob_deferred hpend hdef))).trans
            (congrArg Answer.done hx)⟩ hs.1 rfl rfl
    case queued =>
      have hdef' : (w, p) ∉ s.tag.deferred := by rw [hdef]; simp
      obtain ⟨x, hx⟩ := hfreed
        { s.tag with queue := s.tag.queue.filter fun j => !j.isFor w p }
      refine endsCommand_of h rfl ⟨x, (answerRelease_done hfound
        ((release_held hheld).trans (releaseJob_queued hpend hdef' hj))).trans
          (congrArg Answer.done ?_)⟩ hs.1 rfl rfl
      rw [show (s.argued words rest).tag = s.tag from rfl, hx]
      exact tagSettle_rests hdef hwait (.inl hrun)
    case awaits =>
      obtain ⟨run, hr, hpair⟩ := Option.map_eq_some_iff.mp hrun
      injection hpair with hw hj
      refine endsCommand_of h rfl ⟨false, (answerRelease_done hfound
        ((release_held hheld).trans (releaseJob_running hpend hdef hqueue hr hw hj))).trans
          (congrArg Answer.done ?_)⟩ hs.1 rfl rfl
      rw [withdraw_awaits (by exact hawait), hw, hj,
        updateParcel_from (s := s) (t := s.argued words rest) rfl]
      exact settled_handing (by exact hs.2)
    case ends =>
      obtain ⟨htag, he', hq'⟩ := hjob
      subst hw
      have hj' : run.job.parcel = argument words 2 := hj
      obtain ⟨x, hx⟩ := withdraw_ends (s := s.argued words rest) (j := run.job) hs.2 htag he' hq'
        hawait
      refine endsCommand_of h rfl ⟨x, (answerRelease_done hfound
        ((release_held hheld).trans (releaseJob_running hpend
          (by rw [State.argued, htag]; simp) (by rw [State.argued, htag]; simp)
          (by rw [State.argued, htag]) rfl hj))).trans (congrArg Answer.done ?_)⟩ hs.1 rfl rfl
      rw [hx, hj, withoutParcel_from (s := s) (t := (s.argued words rest).withoutJob) rfl rfl,
        withoutParcel_from (s := s) (t := (s.ended words rest .done 0).withoutJob) rfl rfl]
      rfl
    case refused =>
      exact endsCommand_failed hs h rfl (answerRelease_refused hfound (release_refused hst))

end Sys2Proof.Machine
end

section
/-! PROOFS. The images of a notice, and the seal of its parcel (R59, R142 to R154). -/

namespace Sys2Proof.Machine

/-! ### Notices that fail (R154, R155) -/

section Notice

variable {s : State} {n : Notice} {w : WindowIndex} {e : Window} {q : ParcelRecord}

theorem markOffice_marked (s : State) (ordinals : List Nat) (m : OfficeMark) :
    s.markOffice ordinals m =
      { s with fault := { s.fault with queue := marked s.fault.queue ordinals m } } := rfl

theorem retryTicks_eq (s : State) : s.retryTicks = max 1 s.composer.gatherTime := by
  unfold State.retryTicks
  split <;> omega

/-- A notice that fails by a downstream error. -/
theorem noticeFailed_retry (h : s.composer.notice = some n) :
    s.noticeFailed true = s.noticeReturned n := by
  unfold State.noticeFailed
  rw [h]
  dsimp only
  rw [setGather_gatherBy, retryTicks_eq, markOffice_marked]
  rfl

theorem noticeImageWritten_counted (hw : s.noticeWindow = some w) (hn : s.composer.notice = some n)
    (hleft : 2 ≤ n.writesLeft) :
    noticeImageWritten false s = { s with composer := { s.composer with
      notice := some { n with writesLeft := n.writesLeft - 1 } } } := by
  unfold noticeImageWritten
  rw [hw, hn]
  exact (if_neg Bool.false_ne_true).trans (if_neg (by omega))

theorem noticeImageWritten_last (hw : s.noticeWindow = some w) (hn : s.composer.notice = some n)
    (hleft : n.writesLeft ≤ 1) :
    noticeImageWritten false s = State.offerNotice
      { s with composer := { s.composer with notice := some { n with writesLeft := 0 } } } w n := by
  unfold noticeImageWritten
  rw [hw, hn]
  exact (if_neg Bool.false_ne_true).trans (if_pos hleft)

theorem noticeImageWritten_failed (hw : s.noticeWindow = some w) (hn : s.composer.notice = some n)
    (hq : s.parcel w n.parcel = some q) :
    noticeImageWritten true s =
      (((s.noticeReturned n).discard (only .noticeImage)).freeParcel w n.parcel).raise
        { kind := .memoryError, context := some n.context.val, window := some w.val,
          parcel := some n.parcel, generation := q.slot.map fun i => (s.slot i).generation,
          detailA := noticeWriteCode, detailB := 0 } := by
  unfold noticeImageWritten
  rw [hw, hn]
  dsimp only
  rw [hq, noticeFailed_retry hn]
  rfl

/-- A notice's parcel goes FREE as the notice fails. -/
theorem noticeReturned_withoutParcel (s : State) (n : Notice) (w : WindowIndex) (p : Nat)
    (q : ParcelRecord) :
    (s.noticeReturned n).withoutParcel w p q = (s.withoutParcel w p q).noticeReturned n := by
  rw [withoutParcel_from (s := s) (t := s.noticeReturned n) rfl rfl]
  rfl

theorem offerNotice_room (h : s.tag.queue.length < 16) :
    s.offerNotice w n =
      (((s.handOff w n.parcel (32 * n.ordinals.length)).setPhase .sealing).enqueue
        { window := w, parcel := n.parcel, kind := .sealNotice,
          orderPoint := s.path.nextSerial }).tagSettle := by
  rw [State.offerNotice]
  exact if_pos (jobRoom_free h)

theorem offerNotice_full (h : 16 ≤ s.tag.queue.length) :
    s.offerNotice w n =
      { s.setPhase .awaitingRoom with tag := { s.tag with
        waitingSeal := some { window := w, parcel := n.parcel,
                              length := 32 * n.ordinals.length } } } := by
  rw [State.offerNotice]
  exact if_neg (by simp [jobRoom_full h])

theorem linesFor_records (n : Nat) : linesFor (32 * n) = n := by
  unfold linesFor
  omega

end Notice

/-- Settles O60. -/
theorem noticeImagesAreWritten : Obligations.NoticeImagesAreWritten := by
  intro s r rest n w e q hs hold hw he hn hq b length counted job
  have hbm : ∀ error, (s.landed r rest error).mode = .running :=
    fun error => (landed_mode ..).trans hs.1
  have hbs : ∀ error, Settled (s.landed r rest error) :=
    fun error => by simpa [Settled] using hs.2
  have hbw : ∀ error, (s.landed r rest error).noticeWindow = some w :=
    fun error => (noticeWindow_congr (landed_windows ..)).trans hw
  have hbn : ∀ error, (s.landed r rest error).composer.notice = some n :=
    fun error => by simpa using hn
  have hbq : ∀ error, (s.landed r rest error).parcel w n.parcel = some q :=
    fun error => (landed_parcel ..).trans hq
  have hbe : ∀ error, (s.landed r rest error).window w = some e :=
    fun error => (landed_window ..).trans he
  have hcomposer : b.composer = s.composer := landed_composer ..
  have htag : b.tag = s.tag := landed_tag ..
  have hserial : b.path.nextSerial = s.path.nextSerial := by simp [b]
  refine ⟨fun hleft => ?counted, fun hleft => ⟨fun ht => ?starts,
    fun hlen hrun hdef hwait => ?waits, fun hlen => ?full⟩, ?failed⟩
  case counted =>
    refine goesTo_completion hold (d := only .noticeImage) rfl rfl (hbm false) ⟨false, ?_⟩
    rw [noticeImageWritten_counted (hbw false) (hbn false) hleft]
    refine (settled_handing (by exact hbs false)).trans ?_
    rw [landed_composer]
  case starts =>
    refine goesTo_completion_wanting hold (d := only .noticeImage) rfl rfl (hbm false) ⟨false, ?_⟩
    rw [noticeImageWritten_last (hbw false) (hbn false) hleft,
      offerNotice_room (by rw [landed_tag, ht]; decide)]
    have hoff := fun x => updateParcel_from (s := b) (t := { b with composer := x }) (w := w)
      (p := n.parcel) rfl fun y => { y with state := .sealing, length := some length }
    rw [State.handOff, hoff, updateParcel_const (hbq false)]
    rw [enqueue_starts (e := { e with parcels := e.parcels.modify n.parcel _ })
      (q := { q with state := .sealing, length := some length }) (by exact htag.trans ht)
      (by exact window_updateParcel (s := b) (p := n.parcel) (hbe false) fun _ => _)
      (by exact parcel_updateParcel (s := b) (hbq false) fun _ => _)]
    refine (settled_handing (by exact hbs false)).trans ?_
    have hlines : ({ q with state := .sealing, length := some length } : ParcelRecord).lines =
        n.ordinals.length := linesFor_records _
    rw [ht, ← hlines, ← hserial]
    simp only [counted, job, ← hcomposer, ← hserial]
    rfl
  case waits =>
    refine goesTo_completion hold (d := only .noticeImage) rfl rfl (hbm false) ⟨false, ?_⟩
    rw [noticeImageWritten_last (hbw false) (hbn false) hleft,
      offerNotice_room (by rw [landed_tag]; exact hlen)]
    have hoff := fun x => updateParcel_from (s := b) (t := { b with composer := x }) (w := w)
      (p := n.parcel) rfl fun y => { y with state := .sealing, length := some length }
    rw [State.handOff, hoff, updateParcel_const (hbq false), enqueue_waits
      (by exact (congrArg TagEngine.deferred htag).trans hdef)
      (by exact (congrArg TagEngine.waitingSeal htag).trans hwait)
      (by exact fun h => hrun ((congrArg TagEngine.running htag).symm.trans h))]
    refine (settled_handing (by exact hbs false)).trans ?_
    simp only [counted, job, ← hcomposer, ← htag, ← hserial]
    rfl
  case full =>
    refine goesTo_completion hold (d := only .noticeImage) rfl rfl (hbm false) ⟨false, ?_⟩
    rw [noticeImageWritten_last (hbw false) (hbn false) hleft,
      offerNotice_full (by rw [landed_tag]; exact hlen.ge)]
    refine (settled_handing (by exact hbs false)).trans ?_
    simp only [counted, ← hcomposer, ← htag]
    rfl
  case failed =>
    obtain ⟨x, hx⟩ := freeParcel_handing
      (s := ((s.landed r rest true).noticeReturned n).discard (only .noticeImage))
      (w := w) (p := n.parcel) (hbs true) (hbe true) (hbq true)
    refine goesTo_completion hold (d := only .noticeImage) rfl rfl (hbm true) ⟨x, ?_⟩
    rw [noticeImageWritten_failed (hbw true) (hbn true) (hbq true), hx, handing_raise]
    rw [show ((s.landed r rest true).noticeReturned n).discard (only .noticeImage) =
      ((s.landed r rest true).discard (only .noticeImage)).noticeReturned n from rfl,
      noticeReturned_withoutParcel]
    simp only [landed_slot]
    rfl

end Sys2Proof.Machine
end

section
/-! PROOFS. The jobs that seal a parcel (R60 to R65). -/

namespace Sys2Proof.Machine

/-! ### A completion that calls for a counters write -/

/-- The end of a step whose own effect may have changed the marks of the counters write. -/
theorem issueCounters_finish_marks {u b : State} {new : List InternalRequest}
    {events : List FaultEvent} (hm : b.mode = .running)
    (hu : u = { b with
      path := { b.path with unissued := b.path.unissued ++ new },
      fault := { b.fault with
        countersStale := u.fault.countersStale, countersWanted := u.fault.countersWanted,
        countersWriting := u.fault.countersWriting },
      transit := { reports := events.map .event, examine := u.transit.examine } }) :
    EndsAs b u.issueCounters.finish new events := by
  obtain ⟨more, ho, h⟩ := issueCounters_eq u
  have hx : u.issueCounters.transit = u.transit := by rw [h]
  refine finish_issued (more := more) hm ho ?_
  rw [hx]
  generalize u.issueCounters = v at *
  generalize v.fault.countersStale = c1 at *
  generalize v.fault.countersWanted = c2 at *
  generalize v.fault.countersWriting = c3 at *
  generalize u.fault.countersStale = d1 at hu
  generalize u.fault.countersWanted = d2 at hu
  generalize u.fault.countersWriting = d3 at hu
  generalize u.transit.examine = x at *
  rw [h, hu]

theorem goesTo_completion_marks {s b u : State} {c : Instr} {p : Purpose} {r : InternalRequest}
    {rest : List Flight} {d : Purpose → Bool} {error : Bool} {act : List Byte → State → State}
    {events : List FaultEvent} (h : Oldest s p r rest)
    (hc : exec c s = s.onCompletion d error act) (hd : d p = true) (hm : b.mode = .running)
    (ha : act (s.returned r.address r.access) (s.landed r rest error) = u)
    (hu : u = { b with
      fault := { b.fault with
        countersStale := u.fault.countersStale, countersWanted := u.fault.countersWanted,
        countersWriting := u.fault.countersWriting },
      transit := { reports := events.map .event, examine := u.transit.examine } }) :
    GoesTo s c b [] events := by
  refine ⟨_, hc.trans (onCompletion_of h d hd error act), ?_⟩
  rw [ha]
  refine issueCounters_finish_marks hm ?_
  rw [List.append_nil]
  exact hu

/-! ### Records that stay -/

theorem removeNext_stays {s : State} (h : ∀ x ∈ s.fault.queue, x.leaves = false) :
    s.removeNext = s := by
  have hnone : s.fault.queue.find? FaultRecord.leaves = none :=
    List.find?_eq_none.mpr fun x hx => by simp [h x hx]
  rw [State.removeNext, hnone]

theorem leaveFuel_stays {s : State} (h : s.removeNext = s) : ∀ n, State.leaveFuel n s = s
  | 0 => rfl
  | n + 1 => by rw [State.leaveFuel, h, leaveFuel_stays h n]

theorem leaveAll_stays {s : State} (h : ∀ x ∈ s.fault.queue, x.leaves = false) :
    s.leaveAll = s :=
  leaveFuel_stays (removeNext_stays h) _

theorem marked_hostTaken {queue : List FaultRecord} {ordinals : List Nat} {m : OfficeMark}
    (h : ∀ x ∈ queue, x.hostTaken = false) : ∀ x ∈ marked queue ordinals m, x.hostTaken = false := by
  intro x hx
  obtain ⟨y, hy, rfl⟩ := List.mem_map.mp hx
  rw [← h y hy]
  split <;> rfl

theorem leaves_hostTaken {x : FaultRecord} (h : x.hostTaken = false) : x.leaves = false := by
  simp [FaultRecord.leaves, h]

/-- A change of a record leaves every window its role. -/
theorem window_updateParcel_role (s : State) (w v : WindowIndex) (p : Nat)
    (f : ParcelRecord → ParcelRecord) :
    ((s.updateParcel w p f).window v).map Window.role = (s.window v).map Window.role := by
  unfold State.updateParcel
  cases he : s.window w with
  | none => rfl
  | some e =>
    dsimp only
    rw [window_setWindow]
    by_cases hv : v = w
    · rw [if_pos hv, hv, he]
      rfl
    · rw [if_neg hv]

theorem noticeWindow_roles {s t : State}
    (h : ∀ v, (t.window v).map Window.role = (s.window v).map Window.role) :
    t.noticeWindow = s.noticeWindow := by
  unfold State.noticeWindow
  congr 1
  funext v
  have hv := h v
  cases ht : t.window v <;> cases hs : s.window v <;> rw [ht, hs] at hv
  · cases hv
  · cases hv
  · injection hv with hv
    dsimp only
    rw [hv]

/-! ### What the running seal does with its results (R63 to R65, R76) -/

section Seal

variable {s : State} {run : Running} {e : Window} {q : ParcelRecord} {data : List Byte}
  {i : SlotId}

theorem sealReadback_kept (hn : 2 ≤ run.linesLeft) :
    sealReadback data run e q s =
      s.setRunning (some { run with payload := run.payload ++ data,
                                    linesLeft := run.linesLeft - 1 }) :=
  if_neg (by omega)

theorem sealTag_tagBy {kind length n : Nat} {k : KeySlot} {payload : List Byte}
    (hn : q.sequence = some n) (hl : q.length = some length) :
    s.sealTag kind k q payload =
      tagBy k.hashKey k.trafficKey k.context.val 1 k.generation n payload kind
        s.renewal.storeId length := by
  rw [State.sealTag, hn, hl]
  rfl

/-- The last line read back: the head line is written (R64). -/
theorem sealReadback_last (hn : run.linesLeft ≤ 1) (hi : q.slot = some i) :
    sealReadback data run e q s =
      State.wantAll
        { s with tag := { s.tag with
            running := some { run with payload := run.payload ++ data, linesLeft := 0 } } }
        [{ purpose := .headWrite, ignored := false, address := e.base + 2048 * run.job.parcel,
           access := wholeLine (headLineBytes (s.slot i).context.val run.job.kind.parcelKind
             (s.slot i).generation (q.sequence.getD 0) s.renewal.storeId (q.length.getD 0)
             (s.sealTag run.job.kind.parcelKind (s.slot i) q (run.payload ++ data))),
           orderPoint := s.path.nextSerial }] := by
  refine (if_pos hn).trans ?_
  rw [State.issueHeadLine, hi]
  rfl

theorem sealCompleted_data (hk : run.job.kind = .sealData)
    (hq : s.parcel run.job.window run.job.parcel = some q) :
    sealCompleted run e q s =
      (s.withParcel run.job.window run.job.parcel { q with state := .sealed }).endJob := by
  unfold sealCompleted
  dsimp only
  rw [if_neg (by rw [hk]; decide), updateParcel_const hq]

theorem sealCompleted_notice (hk : run.job.kind = .sealNotice)
    (hq : s.parcel run.job.window run.job.parcel = some q) :
    sealCompleted run e q s =
      ((s.withParcel run.job.window run.job.parcel { q with state := .sealed }).noticeSealed).endJob
      := by
  unfold sealCompleted
  dsimp only
  rw [if_pos hk, updateParcel_const hq]

/-- The publication of a notice none of whose records has been taken (R152). -/
theorem noticeSealed_untaken {notice : Notice} {w : WindowIndex}
    (hn : s.composer.notice = some notice) (hw : s.noticeWindow = some w)
    (he : s.window w = some e) (hh : ∀ x ∈ s.fault.queue, x.hostTaken = false) :
    s.noticeSealed =
      { s with
        fault := { s.fault with
          queue := marked s.fault.queue notice.ordinals .yes, countersStale := true,
          countersWanted := true },
        composer := { s.composer with
          phase := .idle, notice := none,
          published := (s.composer.published + 1) % 4294967296,
          ring := if e.count ≤ s.composer.ring + 1 then 0 else s.composer.ring + 1 },
        transit := { s.transit with examine := true } } := by
  have hstay : ∀ x ∈ (s.markOffice notice.ordinals .yes).fault.queue, x.leaves = false :=
    fun x hx => leaves_hostTaken (marked_hostTaken hh x hx)
  unfold State.noticeSealed
  rw [hn]
  dsimp only
  rw [leaveAll_stays hstay]
  have hring : ((s.markOffice notice.ordinals .yes).countersChanged).nextRing =
      if e.count ≤ s.composer.ring + 1 then 0 else s.composer.ring + 1 := by
    unfold State.nextRing
    rw [show ((s.markOffice notice.ordinals .yes).countersChanged).noticeWindow = some w from
      (noticeWindow_congr rfl).trans hw]
    dsimp only
    rw [show ((s.markOffice notice.ordinals .yes).countersChanged).window w = some e from he]
    rfl
  rw [hring]
  rfl

end Seal

/-! ### A seal that fails (R10, R76, R154) -/

section Failed

variable {s : State} {run : Running} {e : Window} {q : ParcelRecord} {i : SlotId}

/-- The record of a seal that met a downstream error. -/
def sealError (s : State) (j : Job) (i : SlotId) : FaultEvent :=
  parcelEvent .memoryError j (some (s.slot i).context.val) (some (s.slot i).generation)
    j.kind.code 0

theorem sealFailed_data (hs : Settled s) (hk : run.job.kind = .sealData)
    (ht : s.tag = { queue := [], running := some run, deferred := [], waitingSeal := none })
    (hq : s.parcel run.job.window run.job.parcel = some q) (hi : q.slot = some i) :
    sealFailed run e q s =
      (s.withoutJob.withParcel run.job.window run.job.parcel
        { q with state := .filling, length := none }).handing [sealError s run.job i] false := by
  unfold sealFailed
  dsimp only
  rw [if_neg (by rw [hk]; decide), updateParcel_const hq, State.recordContext,
    State.recordGeneration, hi, raise_settled (by exact hs),
    endJob_alone (run := some run) (by exact ht), ← withParcel_withoutJob]
  rfl

theorem sealFailed_notice {notice : Notice} (hs : Settled s) (hk : run.job.kind = .sealNotice)
    (ht : s.tag = { queue := [], running := some run, deferred := [], waitingSeal := none })
    (he : s.window run.job.window = some e)
    (hq : s.parcel run.job.window run.job.parcel = some q) (hi : q.slot = some i)
    (hn : s.composer.notice = some notice) :
    ∃ x, sealFailed run e q s =
      ((s.withoutJob.withoutParcel run.job.window run.job.parcel q).noticeReturned notice).handing
        [sealError s run.job i] x := by
  obtain ⟨x, hx⟩ := freeParcel_handing hs he hq
  refine ⟨x, ?_⟩
  unfold sealFailed
  dsimp only
  rw [if_pos hk, hx, noticeFailed_retry (by exact hn), State.recordContext,
    State.recordGeneration, hi]
  rw [endJob_alone (run := some run) (by exact ht), ← withoutParcel_withoutJob]
  rfl

end Failed

/-! ### The end of a seal while jobs wait (R60, R61) -/

section Waiting

variable {s : State} {j : Job} {js : List Job} {deferred : List (WindowIndex × Nat)}
  {late : Option WaitingSeal} {e : Window} {q : ParcelRecord}

theorem giveEntries_one {t : State} (h : s.giveEntry = t) (ht : 16 ≤ t.tag.queue.length) (n : Nat) :
    State.giveEntries (n + 1) s = t := by
  rw [State.giveEntries, h, giveEntries_stays (giveEntry_full ht)]

theorem giveEntry_deferred {w : WindowIndex} {p : Nat} {left : List (WindowIndex × Nat)}
    (hroom : s.tag.queue.length < 16) (hd : s.tag.deferred = (w, p) :: left) :
    s.giveEntry =
      { s.updateParcel w p fun x => { x with deferred := false } with
        tag := { s.tag with
          deferred := left, queue := s.tag.queue ++ [s.deferredJob w p] } } := by
  have hkind : s.checkKind w =
      if (s.window w).any (fun e => decide (e.role = .renewal)) then .checkRenewal else .check := by
    unfold State.checkKind
    cases s.window w with
    | none => rfl
    | some e => simp
  rw [State.giveEntry, if_pos (jobRoom_free hroom), hd]
  dsimp only
  rw [updateParcel_from (s := s) (t := { s with tag := { s.tag with deferred := left } }) rfl,
    updateParcel_windows, hkind]
  rfl

theorem giveEntry_late {x : WaitingSeal} (hroom : s.tag.queue.length < 16)
    (hd : s.tag.deferred = []) (hl : s.tag.waitingSeal = some x) :
    s.giveEntry =
      { s.updateParcel x.window x.parcel fun y =>
          { y with state := .sealing, length := some x.length } with
        composer := { s.composer with phase := .sealing },
        tag := { s.tag with
          waitingSeal := none,
          queue := s.tag.queue ++
            [{ window := x.window, parcel := x.parcel, kind := .sealNotice,
               orderPoint := s.path.nextSerial }] } } := by
  rw [State.giveEntry, if_pos (jobRoom_free hroom), hd]
  dsimp only
  rw [hl]
  dsimp only
  rw [State.handOff,
    updateParcel_from (s := s) (t := { s with tag := { s.tag with waitingSeal := none } }) rfl,
    updateParcel_windows]
  rfl

/-- A window and a record keep, through a change of a record, what a job reads of them. -/
theorem window_updateParcel_base {v w : WindowIndex} {p : Nat} (f : ParcelRecord → ParcelRecord)
    (he : s.window v = some e) :
    ∃ e', (s.updateParcel w p f).window v = some e' ∧ e'.base = e.base := by
  unfold State.updateParcel
  cases hw : s.window w with
  | none => exact ⟨e, he, rfl⟩
  | some x =>
    dsimp only
    rw [window_setWindow]
    by_cases hv : v = w
    · rw [hv, hw] at he
      injection he with he
      exact ⟨_, if_pos hv, by rw [← he]⟩
    · exact ⟨e, (if_neg hv).trans he, rfl⟩

theorem parcel_updateParcel_length {v w : WindowIndex} {p k : Nat} {f : ParcelRecord → ParcelRecord}
    (hf : ∀ x, (f x).length = x.length) (hq : s.parcel v k = some q) :
    ∃ q', (s.updateParcel w p f).parcel v k = some q' ∧ q'.length = q.length := by
  unfold State.updateParcel
  cases hw : s.window w with
  | none => exact ⟨q, hq, rfl⟩
  | some x =>
    unfold State.parcel at hq ⊢
    dsimp only
    rw [window_setWindow]
    by_cases hv : v = w
    · rw [hv, hw] at hq
      rw [if_pos hv]
      dsimp only at hq ⊢
      rw [List.getElem?_modify, hq]
      by_cases hk : p = k
      · exact ⟨f q, by simp [hk], hf q⟩
      · exact ⟨q, by simp [hk], rfl⟩
    · exact ⟨q, by rw [if_neg hv]; exact hq, rfl⟩

/-- The end of a job while others wait, none of which can enter the queue before its head
has left it: the head starts, and then the entry it leaves is given. -/
theorem endJob_next {run : Option Running}
    (ht : s.tag = { queue := j :: js, running := run, deferred := deferred, waitingSeal := late })
    (hfull : deferred = [] ∧ late = none ∨ js.length = 15)
    (he : s.window j.window = some e) (hq : s.parcel j.window j.parcel = some q) :
    s.endJob = State.giveEntries 17 (State.wantAll
      { s.discard tagPurpose with
        tag := { queue := js, running := some (j.started q), deferred := deferred,
                 waitingSeal := late } } (j.reads e q)) := by
  have htag : ((s.discard tagPurpose).setRunning none).tag =
      { queue := j :: js, running := none, deferred := deferred, waitingSeal := late } := by
    rw [State.setRunning, State.discard, ht]
  have hgive : ((s.discard tagPurpose).setRunning none).giveEntry =
      (s.discard tagPurpose).setRunning none := by
    rcases hfull with ⟨hd, hl⟩ | hlen
    · exact giveEntry_nothing (by rw [htag, hd]) (by rw [htag, hl])
    · exact giveEntry_full (by rw [htag, List.length_cons, hlen])
  have hstart := startNext_starts (s := (s.discard tagPurpose).setRunning none) (by rw [htag])
    (congrArg TagEngine.queue htag) he hq
  rw [State.endJob, State.tagSettle, giveEntries_stays hgive, hstart, htag]
  rfl

theorem deferredJob_congr {t : State}
    (h : ∀ v, (t.window v).map Window.role = (s.window v).map Window.role)
    (ho : t.path.nextSerial = s.path.nextSerial) (w : WindowIndex) (p : Nat) :
    t.deferredJob w p = s.deferredJob w p := by
  have hany : (t.window w).any (fun e => decide (e.role = .renewal)) =
      (s.window w).any fun e => decide (e.role = .renewal) := by
    have hrole : ∀ o : Option Window, o.any (fun e => decide (e.role = .renewal)) =
        (o.map Window.role).any fun x => decide (x = .renewal) := fun o => by cases o <;> rfl
    rw [hrole, hrole, h w]
  rw [State.deferredJob, State.deferredJob, hany, ho]

theorem started_congr {q q' : ParcelRecord} (h : q'.length = q.length) :
    j.started q' = j.started q := by
  simp [Job.started, ParcelRecord.lines, h]

theorem reads_congr {e e' : Window} {q q' : ParcelRecord} (he : e'.base = e.base)
    (h : q'.length = q.length) : j.reads e' q' = j.reads e q := by
  simp [Job.reads, headRead, lineReads, ParcelRecord.lines, he, h]

end Waiting

/-! ### The steps of the seal jobs -/

section Steps

variable {s : State} {run : Running} {e e' : Window} {q q' : ParcelRecord} {j : Job}
  {js : List Job} {deferred : List (WindowIndex × Nat)} {late : Option WaitingSeal}

/-- The head line of a SEAL is written while jobs wait. -/
theorem sealCompleted_next (hk : run.job.kind = .sealData)
    (ht : s.tag = { queue := j :: js, running := some run, deferred := deferred,
                    waitingSeal := late })
    (hq : s.parcel run.job.window run.job.parcel = some q)
    (hfull : deferred = [] ∧ late = none ∨ js.length = 15)
    (he' : s.window j.window = some e') (hq' : s.parcel j.window j.parcel = some q') :
    sealCompleted run e q s = State.giveEntries 17 (State.wantAll
      { s.withoutJob.withParcel run.job.window run.job.parcel { q with state := .sealed } with
        tag := { queue := js, running := some (j.started q'), deferred := deferred,
                 waitingSeal := late } } (j.reads e' q')) := by
  obtain ⟨e'', he'', hbase⟩ := window_updateParcel_base (w := run.job.window) (p := run.job.parcel)
    (fun x => { x with state := .sealed }) he'
  obtain ⟨q'', hq'', hlength⟩ := parcel_updateParcel_length (w := run.job.window)
    (p := run.job.parcel) (f := fun x => { x with state := .sealed }) (fun _ => rfl) hq'
  rw [updateParcel_const hq] at he'' hq''
  rw [sealCompleted_data hk hq, endJob_next (run := some run) (by exact ht) hfull he'' hq'',
    started_congr hlength, reads_congr hbase hlength, ← withParcel_withoutJob]
  rfl

/-- The head line of a notice's parcel is written, and none of its records has been
taken. -/
theorem sealCompleted_published {notice : Notice} (hs : Settled s) (hk : run.job.kind = .sealNotice)
    (ht : s.tag = { queue := [], running := some run, deferred := [], waitingSeal := none })
    (he : s.window run.job.window = some e)
    (hq : s.parcel run.job.window run.job.parcel = some q)
    (hn : s.composer.notice = some notice) (hw : s.noticeWindow = some run.job.window)
    (hh : ∀ x ∈ s.fault.queue, x.hostTaken = false) :
    sealCompleted run e q s =
      { s.withoutJob.withParcel run.job.window run.job.parcel { q with state := .sealed } with
        fault := { s.fault with
          queue := marked s.fault.queue notice.ordinals .yes, countersStale := true,
          countersWanted := true },
        composer := { s.composer with
          phase := .idle, notice := none,
          published := (s.composer.published + 1) % 4294967296,
          ring := if e.count ≤ s.composer.ring + 1 then 0 else s.composer.ring + 1 },
        transit := { reports := [], examine := true } } := by
  have hwindow : (s.withParcel run.job.window run.job.parcel
      { q with state := .sealed }).noticeWindow = some run.job.window := by
    rw [← hw]
    exact noticeWindow_roles (window_updateParcel_role s run.job.window · run.job.parcel _)
  have hsealed := noticeSealed_untaken
    (s := s.withParcel run.job.window run.job.parcel { q with state := .sealed })
    (e := { e with parcels := e.parcels.modify run.job.parcel _ }) hn hwindow
    (window_updateParcel (s := s) (p := run.job.parcel) he fun _ => { q with state := .sealed }) hh
  rw [sealCompleted_notice hk hq, hsealed, endJob_alone (run := some run) (by exact ht),
    ← withParcel_withoutJob]
  have htransit : (s.withParcel run.job.window run.job.parcel
      { q with state := .sealed }).transit = Transit.empty := hs
  rw [htransit]
  rfl

variable {r : InternalRequest} {rest : List Flight} {c : Instr}

/-- A seal that fails, at its read-back or at its head line. -/
theorem goesTo_sealFailed {b : State} {events : List FaultEvent} {i : Bool}
    (hold : Oldest s .sealRead r rest ∧ c = .sealReadbackDone true ∨
      Oldest s .headWrite r rest ∧ c = .headLineWriteDone true) (hb : b.mode = .running)
    (h : ∀ passed, (s.landed r rest true).jobResult true sealFailed passed = b.handing events i) :
    GoesTo s c b [] events := by
  rcases hold with ⟨hold, rfl⟩ | ⟨hold, rfl⟩
  · exact goesTo_completion hold (d := only .sealRead) rfl rfl hb ⟨i, h _⟩
  · exact goesTo_completion hold (d := only .headWrite) rfl rfl hb ⟨i, h _⟩

/-- The publication of a notice, as a step. -/
theorem goesTo_published {notice : Notice} (hs : Quiet s) (hold : Oldest s .headWrite r rest)
    (hrun : JobRuns s run e q) (hp : q.releasePending = false) (hk : run.job.kind = .sealNotice)
    (hn : s.composer.notice = some notice) (hw : s.noticeWindow = some run.job.window)
    (hh : ∀ x ∈ s.fault.queue, x.hostTaken = false) :
    GoesTo s (.headLineWriteDone false)
      { (s.landed r rest false).withoutJob.withParcel run.job.window run.job.parcel
          { q with state := .sealed } with
        fault := { s.fault with queue := marked s.fault.queue notice.ordinals .yes },
        composer := { s.composer with
          phase := .idle, notice := none,
          published := (s.composer.published + 1) % 4294967296,
          ring := if e.count ≤ s.composer.ring + 1 then 0 else s.composer.ring + 1 } } [] [] := by
  obtain ⟨ht, he, hq⟩ := landed_jobRuns s r rest false hrun
  have hend := sealCompleted_published (s := s.landed r rest false) (by simpa [Settled] using hs.2)
    hk ht he hq ((congrArg Composer.notice (landed_composer ..)).trans hn)
    ((noticeWindow_congr (landed_windows ..)).trans hw) (by rw [landed_fault]; exact hh)
  rw [landed_fault, landed_composer] at hend
  exact goesTo_completion_marks hold (d := only .headWrite) rfl rfl ((landed_mode ..).trans hs.1)
    ((jobResult_passed (by rw [ht]) he hq hp).trans hend) rfl

/-- The step of a SEAL whose head line is written while jobs wait, by what the entries it
frees are given to. -/
theorem goesTo_sealNext {x b : State} {new : List InternalRequest} (hs : Quiet s)
    (hold : Oldest s .headWrite r rest) (hk : run.job.kind = .sealData)
    (ht : s.tag = { queue := j :: js, running := some run, deferred := deferred,
                    waitingSeal := late })
    (he : s.window run.job.window = some e)
    (hq : s.parcel run.job.window run.job.parcel = some q) (hp : q.releasePending = false)
    (hfull : deferred = [] ∧ late = none ∨ js.length = 15)
    (he' : s.window j.window = some e') (hq' : s.parcel j.window j.parcel = some q')
    (hb : b = (s.landed r rest false).withoutJob.withParcel run.job.window run.job.parcel
      { q with state := .sealed })
    (hgive : State.giveEntries 17 (State.wantAll
        { b with tag := { queue := js, running := some (j.started q'), deferred := deferred,
                          waitingSeal := late } } (j.reads e' q')) = x.wantAll new)
    (hxm : x.mode = b.mode) (hxt : x.transit = b.transit) :
    GoesTo s (.headLineWriteDone false) x new [] := by
  have hbm : b.mode = .running := by
    rw [hb]
    exact (landed_mode ..).trans hs.1
  have hbt : b.transit = Transit.empty := by
    rw [hb]
    exact (landed_transit ..).trans hs.2
  refine goesTo_completion_wanting hold (d := only .headWrite) rfl rfl (hxm.trans hbm) ⟨false, ?_⟩
  rw [jobResult_passed (run := run) (e := e) (q := q) (by rw [landed_tag, ht])
      ((landed_window ..).trans he) ((landed_parcel ..).trans hq) hp,
    sealCompleted_next hk ((landed_tag ..).trans ht) ((landed_parcel ..).trans hq) hfull
      ((landed_window ..).trans he') ((landed_parcel ..).trans hq'), ← hb, hgive]
  exact settled_handing (by exact hxt.trans hbt)

end Steps

/-- Settles O55. -/
theorem sealJobRuns : Obligations.SealJobRuns := by
  refine ⟨?waiting, ?alone⟩
  case waiting =>
    intro s r rest run e e' q q' j js deferred late hs hold hk ht he hq hp he' hq' b starts
    have hroles : ∀ v, (b.window v).map Window.role = (s.window v).map Window.role := by
      intro v
      rw [← landed_window s r rest false v]
      exact window_updateParcel_role (s.landed r rest false).withoutJob run.job.window v
        run.job.parcel _
    have hserial : b.path.nextSerial = s.path.nextSerial := by
      have h : (s.landed r rest false).path.nextSerial = s.path.nextSerial := by simp
      exact h
    have hcomposer : b.composer = s.composer := landed_composer ..
    refine ⟨fun hd hl hlen => ?nothing, fun w p left hd hlen => ?deferred,
      fun x hd hl hlen => ?late⟩
    case nothing =>
      subst hd hl
      exact goesTo_sealNext (b := b) hs hold hk ht he hq hp (.inl ⟨rfl, rfl⟩) he' hq' rfl
        (giveEntries_stays (giveEntry_nothing rfl rfl) 17) rfl rfl
    case deferred =>
      subst hd
      rw [updateParcel_windows b]
      refine goesTo_sealNext (b := b) hs hold hk ht he hq hp (.inr hlen) he' hq' rfl ?_ rfl rfl
      rw [giveEntries_one (giveEntry_deferred (by exact hlen ▸ by decide) rfl) (by simp [hlen]),
        updateParcel_from (s := b) (t := State.wantAll { b with tag := _ } _) rfl,
        ← deferredJob_congr hroles hserial]
      rfl
    case late =>
      subst hd hl
      rw [updateParcel_windows b]
      refine goesTo_sealNext (b := b) hs hold hk ht he hq hp (.inr hlen) he' hq' rfl ?_ rfl rfl
      rw [giveEntries_one (giveEntry_late (by exact hlen ▸ by decide) rfl rfl) (by simp [hlen]),
        updateParcel_from (s := b) (t := State.wantAll { b with tag := _ } _) rfl, ← hcomposer,
        ← hserial]
      rfl
  case alone =>
    intro s r rest run e q i n length c hs hrun hp hi hn hlen hkinds j k data kind keeps tag headLine
    have hb : ∀ error, JobRuns (s.landed r rest error) run e q :=
      fun error => landed_jobRuns s r rest error hrun
    have hbm : ∀ error, (s.landed r rest error).mode = .running :=
      fun error => (landed_mode ..).trans hs.1
    have hbs : ∀ error, Settled (s.landed r rest error) :=
      fun error => by simpa [Settled] using hs.2
    have hpassed : ∀ failed passed, (s.landed r rest false).jobResult false failed passed =
        passed run e q (s.landed r rest false) := fun failed passed =>
      jobResult_passed (by rw [(hb false).1]) (hb false).2.1 (hb false).2.2 hp
    have hfailed : ∀ failed passed, (s.landed r rest true).jobResult true failed passed =
        failed run e q (s.landed r rest true) := fun failed passed =>
      jobResult_failed (by rw [(hb true).1]) (hb true).2.1 (hb true).2.2 hp
    have hslot : sealError (s.landed r rest true) j i = sealError s j i := by
      rw [sealError, landed_slot]
      rfl
    refine ⟨fun hold => ⟨fun hleft => ?kept, fun hleft => ?last⟩, fun hold => ⟨fun hk => ?sealed,
      fun notice hnot hk hw hh => ?published⟩, fun hold => ⟨fun hk => ?returned,
      fun notice hnot hk => ?noticeFails⟩⟩
    case kept =>
      refine goesTo_completion hold (d := only .sealRead) rfl rfl (hbm false) ⟨false, ?_⟩
      rw [hpassed, sealReadback_kept hleft]
      refine (settled_handing (by exact hbs false)).trans ?_
      rw [State.setRunning, landed_tag]
    case last =>
      have hkind : run.job.kind.parcelKind = kind := by
        rcases hkinds with h | h <;> simp [kind, j, h, JobKind.parcelKind]
      refine goesTo_completion_wanting hold (d := only .sealRead) rfl rfl (hbm false) ⟨false, ?_⟩
      rw [hpassed, sealReadback_last hleft hi, sealTag_tagBy hn hlen, hkind, hn, hlen]
      refine (settled_handing (by exact hbs false)).trans ?_
      have hserial : (s.landed r rest false).path.nextSerial = s.path.nextSerial := by simp
      have hstore : (s.landed r rest false).renewal.storeId = s.renewal.storeId := by simp
      simp only [landed_tag, landed_slot, hserial, hstore]
      rfl
    case sealed =>
      refine goesTo_completion hold (d := only .headWrite) rfl rfl (hbm false) ⟨false, ?_⟩
      rw [hpassed, sealCompleted_data hk (hb false).2.2,
        endJob_alone (run := some run) (by exact (hb false).1), withParcel_withoutJob]
      exact settled_handing (by exact hbs false)
    case published => exact goesTo_published hs hold hrun hp hk hnot hw hh
    case returned =>
      have hfail := sealFailed_data (e := e) (hbs true) hk (hb true).1 (hb true).2.2 hi
      rw [hslot] at hfail
      exact goesTo_sealFailed hold (hbm true) fun passed => (hfailed _ passed).trans hfail
    case noticeFails =>
      obtain ⟨x, hfail⟩ := sealFailed_notice (hbs true) hk (hb true).1 (hb true).2.1 (hb true).2.2 hi
        ((congrArg Composer.notice (landed_composer ..)).trans hnot)
      rw [hslot] at hfail
      exact goesTo_sealFailed hold (hbm true) fun passed => (hfailed _ passed).trans hfail

end Sys2Proof.Machine
end

section
/-! PROOFS. Requests that waited on the port and are taken as a step ends; the completion
of passing pieces, and receipts (R43, R48 to R50, R137). -/

namespace Sys2Proof.Machine

/-! ### A request that waited is taken -/

section Takeable

variable {s b t : State} {r : Request}

/-- The pieces of a takeable request pass as they came. -/
theorem takeable_step {side : Alias} (h : Takeable s r) (ha : aliasOf r.offset = some side)
    {c : Cut} (hc : c ∈ Request.pieces r) {u : State} (hu : u.windows = s.windows) :
    u.takePiece side c = u.place c.address c.access [] := by
  obtain ⟨-, -, hwf, hw, -, hcontrol, hopen⟩ := h
  cases hctl : Request.isControl r with
  | false => exact pieces_open hwf hw hctl side (hopen hctl) hc hu
  | true =>
    obtain ⟨hread, hplain⟩ := hcontrol hctl
    obtain rfl : side = .plain := by
      rw [aliasOf, if_pos hplain] at ha
      exact (Option.some.inj ha).symm
    obtain ⟨address, access⟩ := c
    have hr := pieces_isWrite hc
    rw [State.takePiece, if_pos ((pieces_control hwf hw hc).mpr hctl)]
    cases access with
    | read n => rfl
    | write bytes => exact absurd (hr.trans hread) (by simp [Access.isWrite])

theorem takeRequest_takeable (h : Takeable s r) {u : State} (hu : u.windows = s.windows) :
    u.takeRequest r =
      u.waitsFor r (u.asPieces (Request.pieces r)) ((Request.pieces r).map fun _ => .waiting) := by
  obtain ⟨side, ha⟩ := exists_alias h.2.2.2.1
  rw [waitsFor_pieces]
  exact takeRequest_pieces h.2.2.2.1 ha (takePieces_placed _ u
    (fun c hc v hv => takeable_step h ha hc (hv.trans hu)) h.2.2.2.2.1)

/-- A step that ends where one request waits on the port, and nothing holds it back, takes
it as it ends. -/
theorem endsAs_takeWaiting {new : List InternalRequest} (hm : b.mode = .running)
    (h : EndsAs b t new []) (hr : Takeable b r) : EndsAs (b.tookWaiting r) t.takeWaiting new [] := by
  intro hq
  obtain ⟨e1, ⟨e2, -⟩, e3, -⟩ := h fun k hk =>
    (noticeCalled_congr (foldl_takeEvent_notice _ (fronted_notice (b := b)))).symm.trans (hq k hk)
  have hw : t.windows = b.windows := by rw [e1]
  have hmode : t.mode = .running := by rw [e1]; exact hm
  have hport : t.path.port = [r] := by rw [e2]; exact hr.1
  have hpassing : t.path.passing = b.path.passing := by rw [e2]
  have hout : t.path.outstanding = b.path.outstanding := by rw [e2]
  have hserial : t.path.nextSerial = b.path.nextSerial := by rw [e2]
  have hflight : t.path.flight = b.path.flight := by rw [e2]
  have hresp : t.responses = b.responses := by rw [e1]
  have hhold : t.path.hold = false := by rw [e2]; exact hr.2.1.1
  have hfence : t.fault.postFence = b.fault.postFence := by rw [e3]; rfl
  have htakes : t.takes r = true := by
    have hroom := ready_room hr.2.1
    have hcount : t.passingCount = b.passingCount := by
      rw [State.passingCount, State.passingCount, hpassing, hflight]
    have hroom' : t.roomFor r = true := by
      rw [State.roomFor, hcount]
      exact hroom
    have hfree : Request.isControl r = true → t.controlFree = true := fun hc => by
      have := ready_control hr.2.1 hc
      rw [State.controlFree, hfence, hout]
      exact this
    unfold State.takes
    cases hc : Request.isControl r with
    | true => simp [hmode, hhold, hroom', hfree hc]
    | false => simp [hmode, hhold, hroom']
  have htaken : (State.takeRequest { t with path := { t.path with port := [] } } r) =
      t.fronted [] (b.tookWaiting r).path.passing (b.tookWaiting r).path.outstanding
        (b.tookWaiting r).path.nextSerial b.responses := by
    rw [takeRequest_takeable hr (u := { t with path := { t.path with port := [] } }) hw]
    unfold State.fronted State.tookWaiting State.waitsFor State.asPieces
    dsimp only
    rw [hpassing, hout, hserial, hresp]
  have hunanswered : Unanswered (State.finish (State.takeRequest
      { t with path := { t.path with port := [] } } r)) := by
    intro x hx
    rw [finish_keeps, htaken] at hx
    have hu : Unanswered b := hr.2.1.2.2.1
    have := unanswered_withTaken (s := b) (r := r) hu (map_waiting_done (pieces_ne_nil hr.2.2.1))
    exact this x hx
  have hwaiting : t.takeWaiting = (State.finish (State.takeRequest
      { t with path := { t.path with port := [] } } r)).answer := by
    unfold State.takeWaiting
    rw [hport]
    show State.takeWaitingFuel 1 t = _
    unfold State.takeWaitingFuel
    rw [hport]
    dsimp only
    rw [if_pos htakes]
    rfl
  rw [hwaiting, answer_waits hunanswered, htaken]
  have hbase : b.tookWaiting r = b.fronted [] (b.tookWaiting r).path.passing
      (b.tookWaiting r).path.outstanding (b.tookWaiting r).path.nextSerial b.responses := rfl
  rw [hbase] at hq ⊢
  exact endsAs_finish hm (endsAs_finish hm (endsAs_fronted h)) hq

end Takeable

theorem endsAs_takeWaiting_empty {b t : State} {new : List InternalRequest}
    {events : List FaultEvent} (hp : b.path.port = []) (h : EndsAs b t new events) :
    EndsAs b t.takeWaiting new events := by
  intro hq
  obtain ⟨-, ⟨e2, -⟩, -⟩ := h hq
  rw [takeWaiting_empty (by rw [e2]; exact hp)]
  exact h hq

/-! ### What a receipt touches (R137) -/

/-- t is s with the fault unit, the gather mark and a noted examination changed. -/
def FaultOnly (s t : State) : Prop :=
  t = { s with
    fault := t.fault, composer := { s.composer with gather := t.composer.gather },
    transit := { s.transit with examine := t.transit.examine } }

theorem FaultOnly.refl (s : State) : FaultOnly s s := rfl

theorem FaultOnly.trans {s t u : State} (h : FaultOnly s t) (h' : FaultOnly t u) :
    FaultOnly s u := by
  unfold FaultOnly at *
  generalize u.fault = f at *
  generalize u.composer.gather = g at *
  generalize u.transit.examine = x at *
  rw [h', h]

theorem makeRecord_faultOnly (s : State) (e : FaultEvent) : FaultOnly s (s.makeRecord e) := by
  unfold FaultOnly State.makeRecord
  dsimp only
  split <;> split <;> rfl

theorem summarise_faultOnly (s : State) : FaultOnly s s.summarise := by
  unfold State.summarise
  split
  · exact .refl s
  · exact (makeRecord_faultOnly s _).trans rfl

theorem cutCounter_faultOnly (s : State) (o : Nat) : FaultOnly s (s.cutCounter o) := by
  unfold State.cutCounter
  split
  · exact .refl s
  · rfl

theorem removeNext_faultOnly (s : State) : FaultOnly s s.removeNext := by
  unfold State.removeNext
  split
  · exact .refl s
  · exact FaultOnly.trans (t := { s with fault := { s.fault with
      queue := s.fault.queue.eraseP FaultRecord.leaves } }) rfl
      ((cutCounter_faultOnly _ _).trans (summarise_faultOnly _))

theorem leaveFuel_faultOnly : ∀ (n : Nat) (s : State), FaultOnly s (State.leaveFuel n s)
  | 0, s => .refl s
  | n + 1, s => (removeNext_faultOnly s).trans (leaveFuel_faultOnly n _)

theorem takeReceipt_faultOnly (s : State) : FaultOnly s s.takeReceipt := by
  unfold State.takeReceipt
  split
  · exact .refl s
  split
  · rfl
  split
  · exact .refl s
  · rename_i o _
    exact (FaultOnly.trans (t := (s.markTaken o).evaluateAttn) rfl (leaveFuel_faultOnly _ _)).trans
      rfl

theorem takeReceipt_path (s : State) : s.takeReceipt.path = s.path := by
  rw [takeReceipt_faultOnly s]

theorem takeReceipt_mode (s : State) : s.takeReceipt.mode = s.mode := by
  rw [takeReceipt_faultOnly s]

theorem takeReceipt_reports (s : State) : s.takeReceipt.transit.reports = s.transit.reports := by
  rw [takeReceipt_faultOnly s]

/-- A step that has nothing to hand on, and may issue a counters write before it ends. -/
theorem issueCounters_nothing {t : State} (hm : t.mode = .running)
    (hx : t.transit.reports = []) : EndsAs t t.issueCounters.finish [] [] := by
  refine issueCounters_finish hm ?_
  rw [List.append_nil, List.map_nil, ← hx]

/-! ### The completion of a passing piece (R48 to R50) -/

section Passing

variable {s : State} {x : Taken} {xs : List Taken}

theorem fillParts_first (part : Part) (more : List Part) : ∀ ended : List Part,
    ended.all Part.done = true → fillParts (ended ++ .waiting :: more) part = ended ++ part :: more
  | [], _ => rfl
  | .waiting :: rest, h => by simp [Part.done] at h
  | .served d :: rest, h => by
    rw [List.cons_append, fillParts, fillParts_first part more rest (by simpa [Part.done] using h)]
    · rfl
    · simp
  | .notServed n :: rest, h => by
    rw [List.cons_append, fillParts, fillParts_first part more rest (by simpa [Part.done] using h)]
    · rfl
    · simp

theorem parts_done {ended more : List Part} {part : Part} (he : ended.all Part.done = true)
    (hp : part.done = true) :
    (ended ++ part :: more).all Part.done = more.all Part.done := by
  rw [List.all_append, he, List.all_cons, hp]
  rfl

theorem complete_withPath (s : State) (l : MemoryPath) (a : Nat) (y : Access) (e : Bool) :
    State.complete { s with path := l } a y e = { s.complete a y e with path := l } := by
  unfold State.complete
  split
  · rfl
  · split <;> rfl

theorem answerAll_stays {t : State} (h : Unanswered t) : ∀ n, State.answerAll n t = t
  | 0 => rfl
  | n + 1 => by
    unfold State.answerAll
    split
    · rfl
    · rename_i y rest hy
      rw [if_neg (by rw [h y (by rw [hy]; rfl)]; decide)]

/-- The oldest request is answered, and no other is. -/
theorem answer_oldest {t : State} (ho : s.path.outstanding = x :: xs)
    (hd : x.parts.all Part.done = true) (hxs : ∀ y ∈ xs.head?, y.parts.all Part.done = false)
    (ht : s.answerOne x xs = t) (hto : t.path.outstanding = xs) : s.answer = t.finish := by
  have hu : Unanswered t := by
    unfold Unanswered
    rw [hto]
    exact hxs
  unfold State.answer
  rw [ho, List.length_cons]
  unfold State.answerAll
  rw [ho]
  dsimp only
  rw [if_pos hd, ht, answerAll_stays hu]

end Passing

/-- Settles O28. The piece's end makes the oldest request either still wait or be answered;
either way the step ends, and then takes the request that waits on the port. -/
theorem passingPieceCompletes : Obligations.PassingPieceCompletes := by
  intro s p rest x xs ended more error hs hflight hout hparts hended hxs part x' b waits answeredNow
  have hpart : part.done = true := by
    dsimp only [part]
    split <;> rfl
  have hnot : x.parts.all Part.done = false := by
    rw [hparts, List.all_append, List.all_cons]
    simp [Part.done]
  have hdone : x'.parts.all Part.done = more.all Part.done := parts_done hended hpart
  have hexec : exec (.passingPieceDone error) s = .next waits.answer.takeWaiting := by
    show execPassingPieceDone error s = _
    unfold execPassingPieceDone
    rw [hflight]
    dsimp only
    rw [State.passingDone, complete_withPath, hout]
    unfold fillTaken
    rw [if_neg (by simp [hnot]), hparts, fillParts_first _ _ _ hended]
    have hb : b = { s.complete p.address p.access error with
        path := { s.path with flight := rest } } := complete_withPath s _ _ _ _
    dsimp only [waits]
    rw [hb]
    rfl
  have hbmode : b.mode = s.mode := by
    dsimp only [b]
    rw [complete_eq]
  have hbresponses : b.responses = s.responses := by
    dsimp only [b]
    rw [complete_eq]
  have hbsettled : b.transit = Transit.empty := by
    dsimp only [b]
    rw [complete_eq]
    exact hs
  have hwaits : more.all Part.done = false → Unanswered waits := fun h y hy => by
    obtain rfl : x' = y := by simpa [waits] using hy
    rw [hdone, h]
  have hanswered : ¬(x'.isReceipt = true ∧ waits.mode = .running) →
      waits.answerOne x' xs = answeredNow := fun h => by
    rw [State.answerOne, if_neg h]
    dsimp only [waits, answeredNow]
    rw [hbresponses]
  have hreceipt : x'.isReceipt = true ∧ waits.mode = .running →
      waits.answerOne x' xs = answeredNow.takeReceipt.issueCounters := fun h => by
    rw [State.answerOne, if_pos h]
    dsimp only [waits, answeredNow]
    rw [hbresponses]
  refine ⟨fun hm => ?running, fun hm => ?restarting⟩
  case running =>
    have hstep : ∀ c : State, c.mode = .running → EndsAs c waits.answer [] [] →
        (s.path.port = [] → c.path.port = s.path.port →
          GoesTo s (.passingPieceDone error) c [] []) ∧
        ∀ r, Takeable c r → GoesTo s (.passingPieceDone error) (c.tookWaiting r) [] [] :=
      fun c hc h => ⟨fun hp hcp => ⟨_, hexec, endsAs_takeWaiting_empty (hcp.trans hp) h⟩,
        fun r hr => ⟨_, hexec, endsAs_takeWaiting hc h hr⟩⟩
    have hbm : b.mode = .running := hbmode.trans hm
    refine ⟨fun h => ?waits, fun h hr => ?answered, fun h hr => ?receipt⟩
    case waits =>
      obtain ⟨h1, h2⟩ := hstep waits hbm (by
        rw [answer_waits (hwaits h)]
        exact finish_nothing hbm (congrArg Transit.reports hbsettled))
      exact ⟨fun hp => h1 hp rfl, h2⟩
    case answered =>
      obtain ⟨h1, h2⟩ := hstep answeredNow hbm (by
        rw [answer_oldest rfl (hdone.trans h) hxs (hanswered (by simp [hr])) rfl]
        exact finish_nothing hbm (congrArg Transit.reports hbsettled))
      exact ⟨fun hp => h1 hp rfl, h2⟩
    case receipt =>
      have hrm : answeredNow.takeReceipt.mode = .running := (takeReceipt_mode _).trans hbm
      obtain ⟨h1, h2⟩ := hstep answeredNow.takeReceipt hrm (by
        rw [answer_oldest rfl (hdone.trans h) hxs (hreceipt ⟨hr, hbm⟩)
          ((issueCounters_keeps _).trans (congrArg MemoryPath.outstanding (takeReceipt_path _)))]
        exact issueCounters_nothing hrm
          ((takeReceipt_reports _).trans (congrArg Transit.reports hbsettled)))
      have hport := congrArg MemoryPath.port (takeReceipt_path answeredNow)
      exact ⟨fun hp => h1 hp hport, h2⟩
  case restarting =>
    have hbm : b.mode ≠ .running := by
      rw [hbmode, hm]
      decide
    have hstop : ∀ c : State, c.mode ≠ .running → c.transit = Transit.empty →
        c.finish.takeWaiting = c := by
      intro c hc hcs
      rw [finish_settled hcs, State.pump, if_neg hc]
      exact takeWaiting_stuck fun r _ => takes_false (.inr (.inl hc))
    refine ⟨fun h => ?_, fun h => ?_⟩
    · rw [hexec, answer_waits (hwaits h), hstop waits hbm hbsettled]
    · rw [hexec, answer_oldest rfl (hdone.trans h) hxs (hanswered fun hr => hbm hr.2) rfl,
        hstop answeredNow hbm hbsettled]

end Sys2Proof.Machine
end

section
/-! PROOFS. The end of start-up, and the post write (R55, R103, R135, R136, R138, R141). -/

namespace Sys2Proof.Machine

/-! ### How a step may go on after its end -/

section Ends

variable {b t : State} {new : List InternalRequest} {events : List FaultEvent}

theorem EndsAs.refl (h : Settled b) : EndsAs b b [] [] := fun _ =>
  ⟨by rw [← h], ⟨rfl, [], by simp, by simp⟩, rfl, rfl⟩

/-- An end that goes on to call for a counters write is still that end. -/
theorem endsAs_issueCounters (h : EndsAs b t new events) : EndsAs b t.issueCounters new events := by
  intro hq
  obtain ⟨h1, ⟨h2, more, h3, h4⟩, h5, h6⟩ := h hq
  obtain ⟨more', ho, hi⟩ := issueCounters_eq t
  generalize t.issueCounters.fault.countersStale = c1 at hi
  generalize t.issueCounters.fault.countersWanted = c2 at hi
  generalize t.issueCounters.fault.countersWriting = c3 at hi
  refine ⟨?_, ⟨?_, more ++ more', ?_, onlyCounters_append h4 ho⟩, ?_, ?_⟩
  · generalize t.issueCounters = v at *
    subst hi
    conv_lhs => rw [h1]
  · rw [hi]
    exact congrArg (fun p : MemoryPath => { p with unissued := p.unissued ++ more' }) h2
  · have hv : t.issueCounters.requests = t.requests ++ more' := by
      rw [hi]
      simp [State.requests]
    rw [hv, h3, List.append_assoc]
  · rw [hi]
    dsimp only
    rw [h5]
  · rw [hi]
    exact h6

/-- The end of a step that hands nothing on, tells nothing, and issues `new`. -/
theorem finish_telling_nothing {u : State} (hm : b.mode = .running) (hs : Settled b)
    (hu : u = { b with path := { b.path with unissued := b.path.unissued ++ new } }) :
    EndsAs b u.finish new [] := by
  refine finish_of hm ?_
  have ht : u.transit = Transit.empty := by rw [hu]; exact hs
  rw [List.map_nil, ht, hu]
  exact congrArg (fun x => ({ b with
    path := { b.path with unissued := b.path.unissued ++ new }, transit := x } : State)) hs

/-- While the hold is set nothing that waits on the port is taken. -/
theorem endsAs_takeWaiting_held (hb : b.path.hold = true) (h : EndsAs b t new events) :
    EndsAs b t.takeWaiting new events := by
  intro hq
  obtain ⟨-, ⟨e2, -⟩, -⟩ := h hq
  rw [takeWaiting_hold (by rw [e2]; exact hb)]
  exact h hq

end Ends

/-- A completion after which a request that waits on the port may be taken. -/
theorem goesTo_completion_ends {s b t : State} {c : Instr} {p : Purpose} {r : InternalRequest}
    {rest : List Flight} {d : Purpose → Bool} {error : Bool} {act : List Byte → State → State}
    {new : List InternalRequest} {events : List FaultEvent} (h : Oldest s p r rest)
    (hc : exec c s = s.onCompletion d error act) (hd : d p = true) (hm : b.mode = .running)
    (ha : act (s.returned r.address r.access) (s.landed r rest error) = t)
    (ht : EndsAs b t new events) : GoesTo s c b new events := by
  refine ⟨_, hc.trans (onCompletion_of h d hd error act), ?_⟩
  rw [ha]
  exact endsAs_finish hm (endsAs_issueCounters ht)

/-! ### The choice of the record to post (R135) -/

theorem choosePost_single {s : State} {r : FaultRecord} (hq : s.fault.queue = [r])
    (hr : r.hostTaken = false) : s.choosePost = some r := by
  have hw : (s.fault.queue.filter fun r => !r.hostTaken) = [r] := by
    rw [hq]
    exact List.filter_cons_of_pos (by rw [hr]; rfl)
  unfold State.choosePost
  dsimp only
  rw [hw]
  by_cases hp : s.fault.posted = some r.ordinal <;> simp [hp]

theorem imageOf_ordinary {s : State} {r : FaultRecord} (hk : r.event.kind ≠ .refusedAccess) :
    s.imageOf r = recordImage r r.event.detailA := by
  unfold State.imageOf State.imageDetailA
  cases s.linkedCounter r.ordinal with
  | none => rfl
  | some x =>
    dsimp only
    rw [if_neg hk]

/-- Settles O16. The two ends of start-up clear the hold together, and each takes the
request that waits for it. -/
theorem startUpEnds : Obligations.StartUpEnds := by
  intro s r q rest error hs on r' read written posts
  refine ⟨fun hdone hqueue hkind htaken => ?fuses, fun h => ?result⟩
  case fuses =>
    have hr' : r'.hostTaken = false := htaken
    have hread : s.fuseRead = { read with path := { read.path with
        unissued := read.path.unissued ++ posts } } := by
      have hcs : s.fault.queue.map (completeStarted on) = [r'] := by
        rw [hqueue, List.map_singleton, completeStarted, if_pos hkind]
        rfl
      unfold State.fuseRead
      dsimp only
      rw [setGather_gatherBy, hcs]
      rw [State.issuePost, choosePost_single rfl hr']
      dsimp only
      rw [imageOf_ordinary (r := r') (by show r.event.kind ≠ _; rw [hkind]; decide)]
      rfl
    have hexec : exec .rootFuseStoreRead s = .next s.fuseRead.finish.takeWaiting :=
      if_pos ⟨hs.1, hdone⟩
    have hend : EndsAs read s.fuseRead.finish posts [] := by
      rw [hread]
      exact finish_telling_nothing hs.1 hs.2 rfl
    refine ⟨fun hwait => ⟨_, hexec, ?_⟩, fun x hx => ⟨_, hexec, endsAs_takeWaiting hs.1 hend hx⟩⟩
    rcases hwait with hp | ⟨hh, hu⟩
    · exact endsAs_takeWaiting_empty hp hend
    · have hold : read.path.hold = true := by simp [read, hh, hu]
      exact endsAs_takeWaiting_held hold hend
  case result =>
    have hw : State.clearHold { s.landed q rest error with
        path := { (s.landed q rest error).path with startUpResultDone := true } } = written := by
      simp only [State.clearHold, landed_path, landed_renewal, Bool.and_true, written]
    have hm : written.mode = .running := (landed_mode ..).trans hs.1
    have hsettled : Settled written := (landed_transit ..).trans hs.2
    refine ⟨fun hp => ?_, fun x hx => ?_⟩
    · refine goesTo_completion_ends h (d := only .startUpResult) rfl rfl hm
        (congrArg State.takeWaiting hw) ?_
      exact endsAs_takeWaiting_empty hp (.refl hsettled)
    · refine goesTo_completion_ends h (d := only .startUpResult) rfl rfl hm
        (congrArg State.takeWaiting hw) ?_
      exact endsAs_takeWaiting hm (.refl hsettled) hx

/-! ### The counters write a step's end issues (R140) -/

theorem pump_issueCounters {s : State} (hm : s.mode = .running) :
    s.pump.issueCounters = s.pump := by
  have hpump : s.pump = s.issueCounters.issueWaiting := if_pos hm
  rw [State.issueCounters, if_neg]
  rw [hpump, issueWaiting_issuable, issueCounters_once]
  decide

/-- The end of a step at which a counters write is called for and has room issues it. -/
theorem pump_writesCounters {s : State} (h : s.countersIssuable = true) :
    WritesCounters s s s.pump := by
  have hm : s.mode = .running := by
    simp only [State.countersIssuable, Bool.and_eq_true, decide_eq_true_eq] at h
    tauto
  have hpump : s.pump = s.issueCounters.issueWaiting := if_pos hm
  refine ⟨?_, ?_, ?_, ?_⟩
  · rw [hpump, issueWaiting_requests, State.issueCounters, if_pos h]
    simp only [State.requests, List.append_assoc]
    rfl
  all_goals
    rw [hpump, State.issueCounters, if_pos h]
    rfl

/-! ### The post write (R136, R138) -/

/-- Settles O33. -/
theorem postWriteCompletes : Obligations.PostWriteCompletes := by
  intro s r rest error hs hold hrequests hrest written
  have hout : (s.landed r rest error).postOutstanding = false := by
    simp only [State.postOutstanding, State.awaits, landed_path, Bool.or_eq_false_iff,
      List.any_eq_false]
    refine ⟨⟨fun x hx => ?_, fun f hf => ?_⟩, fun x hx => ?_⟩
    · simp [hrequests x (List.mem_append_left _ hx)]
    · cases f with
      | passing p => simp [Flight.wanted]
      | internal x => simp [Flight.wanted, hrest _ hf x rfl]
    · simp [hrequests x (List.mem_append_right _ hx)]
  have hm : written.mode = .running := (landed_mode ..).trans hs.1
  have hsettled : Settled written := (landed_transit ..).trans hs.2
  have hpath : written.path = { s.path with flight := rest } := landed_path ..
  have hport' : s.path.port = [] → written.path.port = [] := fun h => by rw [hpath]; exact h
  have hwritten : (s.landed r rest error).postWritten error = { written with
      fault := { written.fault with
        countersWanted := s.fault.countersWanted || !s.fault.countersArmed } } := by
    unfold State.postWritten
    rw [hout, landed_fault, Bool.or_false]
  set p : State := (s.landed r rest error).postWritten error with hp
  have hpm : p.mode = .running := by rw [hwritten]; exact hm
  have hps : Settled p := by rw [hwritten]; exact hsettled
  have hend : EndsAs written p.finish [] [] := by
    refine finish_issued (more := []) hm (by simp [OnlyCounters]) ?_
    rw [hwritten]
    simp only [List.append_nil, List.map_nil]
    exact congrArg (fun x => ({ written with
      fault := { written.fault with
        countersWanted := s.fault.countersWanted || !s.fault.countersArmed },
      transit := x } : State))
      (hsettled.trans (congrArg (Transit.mk []) (congrArg Transit.examine hsettled)).symm)
  have hexec : exec (.postWriteDone error) s =
      .next p.finish.takeWaiting.issueCounters.finish :=
    onCompletion_of hold (only .post) rfl error _
  refine ⟨fun hport => ⟨_, hexec, ?_, fun hpending harmed hwriting hunissued hcount => ?_⟩,
    fun x hx => ⟨_, hexec, endsAs_finish hm (endsAs_issueCounters (endsAs_takeWaiting hm hend hx))⟩⟩
  · exact endsAs_finish hm (endsAs_issueCounters (endsAs_takeWaiting_empty (hport' hport) hend))
  · have hpp : p.path = { s.path with flight := rest } := by rw [hwritten]; exact hpath
    have hissuable : p.countersIssuable = true := by
      have hless : p.internalCount < s.internalCount := by
        rw [State.internalCount, State.internalCount, hpp, hold.1]
        simp [Flight.isPassing]
      have hwaiting : p.path.unissued = [] := by
        rw [hpp]
        exact hunissued
      unfold State.countersIssuable
      rw [hpm, hwaiting]
      have hroom : p.internalCount < 16 := by omega
      have harmed' : p.fault.countersArmed = true := by
        rw [hwritten]
        simp [written, hpending]
      have hwanted : p.fault.countersWanted = true := by
        rw [hwritten]
        simp [harmed]
      have hwriting' : p.fault.countersWriting = false := by
        rw [hwritten]
        simpa [written] using hwriting
      simp [harmed', hwanted, hwriting', hroom]
    have hpump : p.finish.takeWaiting.issueCounters.finish = p.pump := by
      have hfinish : p.finish = p.pump := finish_settled hps
      rw [takeWaiting_empty (by rw [hfinish, (pump_requests p).2.1, hwritten]; exact hport' hport),
        hfinish, pump_issueCounters hpm, ← hfinish, finish_finish]
    rw [hpump]
    have hrequests : p.requests = s.requests := by
      rw [State.requests, hpp]
      rfl
    have hwrite : p.countersWrite p.path.nextSerial = s.countersWrite s.path.nextSerial := by
      rw [hwritten]
      unfold State.countersWrite State.counter
      simp [written]
    obtain ⟨h1, h2⟩ := pump_writesCounters hissuable
    rw [hrequests, hwrite] at h1
    exact ⟨h1, h2⟩

/-! ### The post write is issued (R135, R136) -/

section Choice

variable {r best : FaultRecord}

theorem foldl_betterPost_stays : ∀ {l : List FaultRecord},
    (∀ x ∈ l, x.event.kind.severity ≤ r.event.kind.severity) → l.foldl betterPost r = r
  | [], _ => rfl
  | x :: rest, h => by
    have hx := h x (List.mem_cons_self ..)
    rw [List.foldl_cons, betterPost, if_neg (by omega)]
    exact foldl_betterPost_stays fun y hy => h y (List.mem_cons_of_mem _ hy)

theorem foldl_betterPost_below : ∀ {l : List FaultRecord} {best : FaultRecord},
    best.event.kind.severity < r.event.kind.severity →
    (∀ x ∈ l, x.event.kind.severity < r.event.kind.severity) →
    (l.foldl betterPost best).event.kind.severity < r.event.kind.severity
  | [], _, hb, _ => hb
  | x :: rest, best, hb, h => by
    rw [List.foldl_cons]
    refine foldl_betterPost_below ?_ fun y hy => h y (List.mem_cons_of_mem _ hy)
    unfold betterPost
    split
    · exact h x (List.mem_cons_self ..)
    · exact hb

/-- Of the waiting records the first of the highest severity is chosen. -/
theorem choosePost_highest {s : State} {before after : List FaultRecord}
    (hq : s.fault.queue = before ++ r :: after) (hr : r.hostTaken = false)
    (hp : ∀ x ∈ s.fault.queue, x.hostTaken = false → s.fault.posted ≠ some x.ordinal)
    (hb : ∀ x ∈ before, x.hostTaken = false → x.event.kind.severity < r.event.kind.severity)
    (ha : ∀ x ∈ after, x.hostTaken = false → x.event.kind.severity ≤ r.event.kind.severity) :
    s.choosePost = some r := by
  have hw : (s.fault.queue.filter fun r => !r.hostTaken) =
      before.filter (fun r => !r.hostTaken) ++ r :: after.filter (fun r => !r.hostTaken) := by
    rw [hq, List.filter_append, List.filter_cons_of_pos (by rw [hr]; rfl)]
  have hnone : (s.fault.queue.filter fun r => !r.hostTaken).find?
      (fun r => decide (s.fault.posted = some r.ordinal)) = none := by
    refine List.find?_eq_none.mpr fun x hx => ?_
    obtain ⟨hmem, htaken⟩ := List.mem_filter.mp hx
    simpa using hp x hmem (by simpa using htaken)
  have hbelow : ∀ x ∈ before.filter (fun r => !r.hostTaken),
      x.event.kind.severity < r.event.kind.severity := fun x hx => by
    obtain ⟨hmem, htaken⟩ := List.mem_filter.mp hx
    exact hb x hmem (by simpa using htaken)
  have hstays := foldl_betterPost_stays (r := r)
    (l := after.filter fun r => !r.hostTaken) fun x hx => by
      obtain ⟨hmem, htaken⟩ := List.mem_filter.mp hx
      exact ha x hmem (by simpa using htaken)
  unfold State.choosePost
  dsimp only
  rw [hnone, hw]
  cases hx : before.filter (fun r => !r.hostTaken) with
  | nil => exact congrArg some hstays
  | cons x rest =>
    rw [hx] at hbelow
    have hrest := foldl_betterPost_below (hbelow x (List.mem_cons_self ..))
      fun y hy => hbelow y (List.mem_cons_of_mem _ hy)
    show some ((rest ++ r :: _).foldl betterPost x) = _
    rw [List.foldl_append, List.foldl_cons, betterPost, if_pos hrest, hstays]

/-- The posted record stays posted while it waits. -/
theorem choosePost_posted {s : State} {before after : List FaultRecord}
    (hq : s.fault.queue = before ++ r :: after) (hr : r.hostTaken = false)
    (hp : s.fault.posted = some r.ordinal) (hb : ∀ x ∈ before, x.ordinal ≠ r.ordinal) :
    s.choosePost = some r := by
  have hfind : (s.fault.queue.filter fun r => !r.hostTaken).find?
      (fun r => decide (s.fault.posted = some r.ordinal)) = some r := by
    rw [hq, List.filter_append, List.filter_cons_of_pos (by rw [hr]; rfl), List.find?_append,
      List.find?_eq_none.mpr, Option.none_or, List.find?_cons_of_pos (by rw [hp]; simp)]
    intro x hx
    have := hb x (List.mem_filter.mp hx).1
    rw [hp]
    simpa using fun h => this h.symm
  unfold State.choosePost
  dsimp only
  rw [hfind]

theorem choosePost_none {s : State} (h : ∀ x ∈ s.fault.queue, x.hostTaken = true) :
    s.choosePost = none := by
  have hw : (s.fault.queue.filter fun r => !r.hostTaken) = [] :=
    List.filter_eq_nil_iff.mpr fun x hx => by simp [h x hx]
  unfold State.choosePost
  dsimp only
  rw [hw]
  rfl

end Choice

theorem postIssuable_of {s : State} (hs : Quiet s) (hp : s.fault.postPending = true)
    (hf : s.renewal.fuseReadDone = true)
    (hc : ∀ x ∈ s.path.outstanding, Request.isControl x.request = false)
    (hi : s.internalCount < 16) : s.postIssuable = true := by
  have hall : s.path.outstanding.all (fun t => !Request.isControl t.request) = true :=
    List.all_eq_true.mpr fun x hx => by rw [hc x hx]; rfl
  rw [State.postIssuable, hs.1, hp, hf, hall]
  simp [hi]

/-- Settles O32. -/
theorem postIsIssued : Obligations.PostIsIssued := by
  intro s before after r hs hp hf hc hi writes posts
  have hexec : exec .postWriteIssue s = .next s.issuePost.finish :=
    if_pos (postIssuable_of hs hp hf hc hi)
  have hchosen : s.choosePost = some r → ∀ detailA, s.imageOf r = recordImage r detailA →
      posts r detailA := fun h detailA himage => by
    refine ⟨_, hexec, finish_telling_nothing hs.1 hs.2 ?_⟩
    rw [State.issuePost, h]
    dsimp only
    rw [himage]
    rfl
  refine ⟨fun hq hr hwhich => ?_, fun h => ?_⟩
  · have hchoice : s.choosePost = some r := by
      rcases hwhich with ⟨hposted, hb⟩ | ⟨hposted, hb, ha⟩
      · exact choosePost_posted hq hr hposted hb
      · exact choosePost_highest hq hr hposted hb ha
    refine ⟨fun hlink => hchosen hchoice _ ?_, fun x hlink hkind => hchosen hchoice _ ?_⟩
    · rw [State.imageOf, State.imageDetailA, hlink]
    · rw [State.imageOf, State.imageDetailA, hlink]
      dsimp only
      rw [if_pos hkind]
  · refine ⟨_, hexec, finish_telling_nothing hs.1 hs.2 ?_⟩
    rw [State.issuePost, choosePost_none h]
    rfl

end Sys2Proof.Machine
end

section
/-! PROOFS. Receipts, and the counters area (R128, R129, R131, R137, R140). -/

namespace Sys2Proof.Machine

/-! ### Receipts (R128, R129, R131, R137) -/

section Receipt

variable {s : State} {before after : List FaultRecord} {r : FaultRecord}

/-- A record is made, by what it changes. -/
theorem makeRecord_full (s : State) (e : FaultEvent) :
    s.makeRecord e = { s with
      fault := { s.fault with
        queue := s.fault.queue ++ [s.newRecord e],
        nextOrdinal := nextOrdinalAfter s.fault.nextOrdinal, attn := true,
        postPending := s.fault.postPending || s.fault.posted.isNone || !s.fault.postSound,
        postFence := s.fault.postFence || s.fault.posted.isNone || !s.fault.postSound },
      composer := { s.composer with gather :=
        if s.recordsAtNo = [] ∧ s.noticeWindow.isSome = true then
          { value := some (ahead s.time.tick s.composer.gatherTime),
            latch := decide (s.composer.gatherTime = 0) }
        else if s.recordsAtNo = [] then { value := none, latch := false }
        else s.composer.gather },
      transit := { s.transit with examine := (s.makeRecord e).transit.examine } } := by
  rw [← makeRecord_fault, ← makeRecord_gather]
  exact makeRecord_faultOnly s e

/-- The counters once the record of an ordinal has left. -/
def State.countersCut (s : State) (ordinal : Nat) : Vector RefusalCounter 9 :=
  match s.linkedCounter ordinal with
  | none => s.fault.counters
  | some x => s.fault.counters.set x RefusalCounter.zero

theorem cutCounter_counters (s : State) (ordinal : Nat) :
    ∃ c1 c2, s.cutCounter ordinal = { s with fault := { s.fault with
      counters := s.countersCut ordinal, countersStale := c1, countersWanted := c2 } } := by
  unfold State.cutCounter State.countersCut
  cases s.linkedCounter ordinal <;> exact ⟨_, _, rfl⟩

/-- A SUMMARY record takes a freed place, by what it changes. -/
theorem summarise_full (h : s.fault.overflow ≠ []) : ∃ c1 c2 x,
    s.summarise = { s with
      fault := { s.fault with
        queue := s.fault.queue ++ [s.newRecord s.summaryEvent],
        nextOrdinal := nextOrdinalAfter s.fault.nextOrdinal, attn := true,
        postPending := s.fault.postPending || s.fault.posted.isNone || !s.fault.postSound,
        postFence := s.fault.postFence || s.fault.posted.isNone || !s.fault.postSound,
        overflow := [], lostSinceSummary := 0, countersStale := c1, countersWanted := c2 },
      composer := { s.composer with gather :=
        if s.recordsAtNo = [] ∧ s.noticeWindow.isSome = true then
          { value := some (ahead s.time.tick s.composer.gatherTime),
            latch := decide (s.composer.gatherTime = 0) }
        else if s.recordsAtNo = [] then { value := none, latch := false }
        else s.composer.gather },
      transit := { s.transit with examine := x } } := by
  refine ⟨true, true, (s.makeRecord s.summaryEvent).transit.examine, ?_⟩
  rw [State.summarise, if_neg (by simpa using h)]
  conv_lhs => rw [makeRecord_full]
  rfl

theorem summarise_nothing (h : s.fault.overflow = []) : s.summarise = s := by
  rw [State.summarise, h]
  rfl

/-- The SUMMARY record that takes a freed place has not been taken. -/
theorem summarise_leaves {s : State} (h : ∀ x ∈ s.fault.queue, x.leaves = false) :
    ∀ x ∈ s.summarise.fault.queue, x.leaves = false := by
  rcases (summarise_fault s).1 with hs | ⟨hq, -⟩
  · rw [hs]
    exact h
  · rw [hq]
    intro x hx
    rcases List.mem_append.mp hx with hx | hx
    · exact h x hx
    · rw [List.mem_singleton.mp hx]
      rfl

/-- s with another fault queue. -/
def State.queued (s : State) (queue : List FaultRecord) : State :=
  { s with fault := { s.fault with queue := queue } }

/-- Where one record's condition holds, it alone leaves. -/
theorem leaveAll_one (hq : s.fault.queue = before ++ r :: after) (hr : r.leaves = true)
    (hx : ∀ x ∈ before ++ after, x.leaves = false) :
    s.leaveAll = ((s.queued (before ++ after)).cutCounter r.ordinal).summarise := by
  have hbefore : ∀ x ∈ before, ¬x.leaves = true := fun x h => by
    simp [hx x (List.mem_append_left _ h)]
  have hnext : s.removeNext = ((s.queued (before ++ after)).cutCounter r.ordinal).summarise := by
    have hfind : s.fault.queue.find? FaultRecord.leaves = some r := by
      rw [hq, List.find?_append, List.find?_eq_none.mpr hbefore, Option.none_or,
        List.find?_cons_of_pos hr]
    have herase : s.fault.queue.eraseP FaultRecord.leaves = before ++ after := by
      rw [hq, List.eraseP_append_right _ hbefore, List.eraseP_cons_of_pos hr]
    rw [State.removeNext, hfind]
    dsimp only
    rw [herase]
    rfl
  have hstays : ∀ x ∈ ((s.queued (before ++ after)).cutCounter r.ordinal).fault.queue,
      x.leaves = false := by
    obtain ⟨c1, c2, h⟩ := cutCounter_counters (s.queued (before ++ after)) r.ordinal
    rw [h]
    exact hx
  have hlength : s.fault.queue.length = (before ++ after).length + 1 := by
    rw [hq]
    simp
    omega
  rw [State.leaveAll, hlength, State.leaveFuel, hnext]
  exact leaveFuel_stays (removeNext_stays (summarise_leaves hstays)) _

/-- The posted record is TAKEN and ATTN follows. -/
theorem markTaken_evaluateAttn (hq : s.fault.queue = before ++ r :: after)
    (hx : ∀ x ∈ before ++ after, x.ordinal ≠ r.ordinal) :
    (s.markTaken r.ordinal).evaluateAttn = { s with fault := { s.fault with
      queue := before ++ { r with hostTaken := true } :: after,
      attn := (before ++ after).any fun x => !x.hostTaken } } := by
  have hsame : ∀ l : List FaultRecord, (∀ x ∈ l, x.ordinal ≠ r.ordinal) →
      l.map (fun x => if x.ordinal = r.ordinal then { x with hostTaken := true } else x) = l :=
    fun l h => (List.map_congr_left fun x hx => if_neg (h x hx)).trans (List.map_id _)
  have hqueue : (s.fault.queue.map fun x =>
      if x.ordinal = r.ordinal then { x with hostTaken := true } else x) =
        before ++ { r with hostTaken := true } :: after := by
    rw [hq, List.map_append, List.map_cons, if_pos rfl,
      hsame _ fun x h => hx x (List.mem_append_left _ h),
      hsame _ fun x h => hx x (List.mem_append_right _ h)]
  rw [State.markTaken, State.evaluateAttn, hqueue]
  simp [attnLevel]

/-- A receipt of the posted record. -/
theorem takeReceipt_posted (hp : s.fault.postPending = false) (hsound : s.fault.postSound = true)
    (hr : s.fault.posted = some r.ordinal) :
    s.takeReceipt = ((s.markTaken r.ordinal).evaluateAttn.leaveAll).startPosting := by
  rw [State.takeReceipt, if_neg (by simp [hp]), if_neg (by simp [hsound]), hr]

/-- s once the posted record has been taken and has left: the place it freed waits for
its SUMMARY. -/
def State.freed (s : State) (ordinal : Nat) (rest : List FaultRecord) (c1 c2 : Bool) : State :=
  { s with fault := { s.fault with
    queue := rest, attn := rest.any fun x => !x.hostTaken, counters := s.countersCut ordinal,
    countersStale := c1, countersWanted := c2 } }

/-- A receipt of a posted record that leaves. -/
theorem takeReceipt_leaves (hp : s.fault.postPending = false) (hsound : s.fault.postSound = true)
    (hposted : s.fault.posted = some r.ordinal) (hq : s.fault.queue = before ++ r :: after)
    (hx : ∀ x ∈ before ++ after, x.ordinal ≠ r.ordinal ∧ x.leaves = false)
    (hr : FaultRecord.leaves { r with hostTaken := true } = true) :
    ∃ c1 c2, s.takeReceipt =
      (s.freed r.ordinal (before ++ after) c1 c2).summarise.startPosting := by
  obtain ⟨c1, c2, hcut⟩ := cutCounter_counters (State.queued { s with fault := { s.fault with
    queue := before ++ { r with hostTaken := true } :: after,
    attn := (before ++ after).any fun x => !x.hostTaken } } (before ++ after)) r.ordinal
  refine ⟨c1, c2, ?_⟩
  rw [takeReceipt_posted hp hsound hposted, markTaken_evaluateAttn hq fun x h => (hx x h).1,
    leaveAll_one rfl hr fun x h => (hx x h).2]
  dsimp only
  rw [hcut]
  rfl

theorem leaves_of_office {x : FaultRecord} (h : x.office = .yes ∨ x.office = .notRequired) :
    FaultRecord.leaves { x with hostTaken := true } = true := by
  rcases h with h | h <;> simp [FaultRecord.leaves, h]

theorem stays_of_office {x : FaultRecord} (h : x.office = .no ∨ x.office = .inFlight) :
    FaultRecord.leaves { x with hostTaken := true } = false := by
  rcases h with h | h <;> simp [FaultRecord.leaves, h]

/-- A receipt ends as its effect says, up to the marks of the counters write and an
examination it notes. -/
theorem endsAs_receipt {b : State} (hs : Quiet s) (hb : b.mode = .running)
    (h : ∃ c1 c2 x, s.takeReceipt = { b with
      fault := { b.fault with countersStale := c1, countersWanted := c2 },
      transit := { reports := [], examine := x } }) :
    ∃ t, exec .receipt s = .next t ∧ EndsAs b t [] [] := by
  refine ⟨_, if_pos hs.1, ?_⟩
  obtain ⟨c1, c2, x, h⟩ := h
  rw [h]
  exact issueCounters_finish_marks hb (by simp)

/-- Settles O31. -/
theorem receiptTakesRecord : Obligations.ReceiptTakesRecord := by
  intro s before after r hs counters
  have hunchanged : s.takeReceipt = s → ∃ t, exec .receipt s = .next t ∧ EndsAs s t [] [] :=
    fun h => endsAs_receipt hs hs.1 ⟨_, _, false, by rw [h]; exact settled_handing hs.2⟩
  refine ⟨fun hp => ?pending, fun hp hsound => ?unsound, fun hp hsound hposted => ?nothing,
    fun hp hsound hposted hq hx => ?posted⟩
  case pending => exact hunchanged (if_pos hp)
  case unsound =>
    refine endsAs_receipt hs hs.1 ⟨s.fault.countersStale, s.fault.countersWanted, false, ?_⟩
    rw [State.takeReceipt, if_neg (by simp [hp]), if_pos (by simp [hsound])]
    exact settled_handing (by exact hs.2)
  case nothing =>
    refine hunchanged ?_
    rw [State.takeReceipt, if_neg (by simp [hp]), if_neg (by simp [hsound]), hposted]
  case posted =>
    have htaken := markTaken_evaluateAttn hq fun x h => (hx x h).1
    have hothers : ∀ x ∈ before ++ after, x.leaves = false := fun x h => (hx x h).2
    have hcounters : counters = s.countersCut r.ordinal := by
      dsimp only [counters]
      unfold State.countersCut
      cases s.linkedCounter r.ordinal <;> rfl
    refine ⟨fun hoffice => ?stays, fun hoffice hover => ?leaves, fun hoffice hover => ?summary⟩
    case stays =>
      refine endsAs_receipt hs hs.1 ⟨s.fault.countersStale, s.fault.countersWanted, false, ?_⟩
      rw [takeReceipt_posted hp hsound hposted, htaken, leaveAll_stays]
      · exact settled_handing (by exact hs.2)
      · intro x h
        rcases List.mem_append.mp h with h | h
        · exact hothers x (List.mem_append_left _ h)
        · rcases List.mem_cons.mp h with rfl | h
          · exact stays_of_office hoffice
          · exact hothers x (List.mem_append_right _ h)
    case leaves =>
      obtain ⟨c1, c2, h⟩ := takeReceipt_leaves hp hsound hposted hq hx (leaves_of_office hoffice)
      refine endsAs_receipt hs hs.1 ⟨c1, c2, false, ?_⟩
      rw [h, summarise_nothing (s := s.freed r.ordinal (before ++ after) c1 c2) hover, hcounters]
      exact settled_handing (by exact hs.2)
    case summary =>
      obtain ⟨c1, c2, h⟩ := takeReceipt_leaves hp hsound hposted hq hx (leaves_of_office hoffice)
      obtain ⟨d1, d2, x, hsum⟩ := summarise_full (s := s.freed r.ordinal (before ++ after) c1 c2) hover
      refine endsAs_receipt hs hs.1 ⟨d1, d2, x, ?_⟩
      have hgather : ∀ a b c : Mark,
          (if (s.freed r.ordinal (before ++ after) c1 c2).recordsAtNo = [] ∧
              s.noticeWindow.isSome = true then a
            else if (s.freed r.ordinal (before ++ after) c1 c2).recordsAtNo = [] then b else c) =
          if (before ++ after).any fun x => decide (x.office = .no) then c
          else if s.noticeWindow.isSome = true then a else b := by
        intro a b c
        have hno : (s.freed r.ordinal (before ++ after) c1 c2).recordsAtNo = [] ↔
            ((before ++ after).any fun x => decide (x.office = .no)) = false := by
          simp [State.recordsAtNo, State.freed, List.filter_eq_nil_iff]
        simp only [hno]
        cases (before ++ after).any fun x => decide (x.office = .no) <;>
          cases s.noticeWindow.isSome <;> rfl
      have hgather' := hgather
        { value := some (ahead s.time.tick s.composer.gatherTime),
          latch := decide (s.composer.gatherTime = 0) } { value := none, latch := false }
        s.composer.gather
      rw [h, hsum, hcounters, ← hgather', State.startPosting]
      rw [← (show s.transit.reports = [] from congrArg Transit.reports hs.2)]
      rfl

end Receipt

end Sys2Proof.Machine
end

section
/-! PROOFS. The counters area: the write that an event calls for (R140). -/

namespace Sys2Proof.Machine

/-! ### The end of a step, by what stands to be issued -/

section Ends

variable {s u : State}

/-- Where no counters write is issued, the end of a step moves requests only. -/
theorem pump_notIssuable (h : s.countersIssuable = false) :
    s.pump.requests = s.requests ∧ s.pump.fault = s.fault := by
  unfold State.pump
  split
  · rw [State.issueCounters, if_neg (by simp [h]), issueWaiting_requests]
    exact ⟨rfl, rfl⟩
  · exact ⟨rfl, rfl⟩

theorem notIssuable_writing (h : s.fault.countersWriting = true) : s.countersIssuable = false := by
  simp [State.countersIssuable, h]

theorem notIssuable_wanted (h : s.fault.countersWanted = false) : s.countersIssuable = false := by
  simp [State.countersIssuable, h]

theorem issuable_of (hm : s.mode = .running) (ha : s.fault.countersArmed = true)
    (hw : s.fault.countersWanted = true) (hn : s.fault.countersWriting = false)
    (hr : s.internalCount + s.path.unissued.length < 16) : s.countersIssuable = true := by
  simp [State.countersIssuable, hm, ha, hw, hn, hr]

/-- The counters write of an event is the one the step's end would issue. -/
theorem issueCounters_pump (s : State) : s.issueCounters.pump = s.pump := by
  unfold State.pump
  rw [issueCounters_mode]
  split
  · rw [State.issueCounters, if_neg (by rw [issueCounters_once]; decide)]
  · rename_i hm
    rw [State.issueCounters, if_neg]
    simp [State.countersIssuable, hm]

theorem pump_emptied (s : State) (x : Transit) :
    State.pump { s with transit := x } = { s.pump with transit := x } := by
  have hissue : State.issueCounters { s with transit := x } =
      { s.issueCounters with transit := x } := by
    have hi : State.countersIssuable { s with transit := x } = s.countersIssuable := rfl
    unfold State.issueCounters
    rw [hi]
    cases s.countersIssuable <;> rfl
  unfold State.pump
  rw [hissue]
  by_cases hm : s.mode = .running
  · rw [if_pos hm, if_pos hm]
    rfl
  · rw [if_neg hm, if_neg hm]

/-- A step with nothing to hand on, whose examination starts no notice, only issues. -/
theorem finish_examined (hm : s.mode = .running) (hx : s.transit.reports = [])
    (hq : s.transit.examine = true → s.noticeCalled = false) :
    s.finish = { s.pump with transit := Transit.empty } := by
  have hdrain : s.drainReports = s := by
    unfold State.drainReports
    rw [hx, List.foldl_nil, ← hx]
  have hexamine : s.runExamination = { s with transit := Transit.empty } := by
    have hempty : ({ s.transit with examine := false } : Transit) = Transit.empty :=
      congrArg (Transit.mk · false) hx
    by_cases he : s.transit.examine = true
    · rw [runExamination_quiet (hq he), hempty]
    · have hsame : ({ s.transit with examine := false } : Transit) = s.transit :=
        congrArg (Transit.mk s.transit.reports) (Bool.eq_false_of_not_eq_true he).symm
      rw [State.runExamination, if_neg he, ← hempty, hsame]
  unfold State.finish State.settle
  rw [if_pos hm, hdrain, hexamine, ← pump_emptied]
  rfl

/-- The same where the step first issues a counters write. -/
theorem issueCounters_examined (hm : s.mode = .running) (hx : s.transit.reports = [])
    (hq : s.transit.examine = true → s.noticeCalled = false) :
    s.issueCounters.finish = { s.pump with transit := Transit.empty } := by
  rw [finish_examined (by rw [issueCounters_mode]; exact hm) (by rw [issueCounters_transit]; exact hx)
    (fun h => (noticeCalled_congr (issueCounters_same (.refl s))).trans
      (hq (by rwa [issueCounters_transit] at h))), issueCounters_pump]

/-- The counters write reads the fault unit's values and the count of notices. -/
theorem countersWrite_same {a b : State} (h : SameFaults a b) (n : Nat) :
    a.countersWrite n = b.countersWrite n := by
  rw [sameFaults_fields h]
  rfl

theorem pump_same (s : State) : SameFaults s.pump s := by
  obtain ⟨h1, -, h3, -⟩ := pump_requests s
  exact ⟨h3, by rw [h1], by rw [h1], by rw [h1]⟩

end Ends

/-- The counters write that s calls for, or s as it stands while one is outstanding. -/
theorem pump_called {s t : State} (ht : t = { s.pump with transit := Transit.empty })
    (hm : s.mode = .running) (ha : s.fault.countersArmed = true)
    (hw : s.fault.countersWanted = true) (hr : s.internalCount + s.path.unissued.length < 16) :
    (s.fault.countersWriting = false → WritesCounters s s t) ∧
      (s.fault.countersWriting = true → t.requests = s.requests ∧ t.fault = s.fault) := by
  subst ht
  exact ⟨fun h => pump_writesCounters (issuable_of hm ha hw h hr),
    fun h => pump_notIssuable (notIssuable_writing h)⟩

/-- Its values are those the step leaves. -/
theorem writesCounters_after {b s t : State} (h : WritesCounters s s t) (hb : b.requests = s.requests)
    (hn : b.path.nextSerial = s.path.nextSerial)
    (ht : t = { s.pump with transit := Transit.empty }) : WritesCounters b t t := by
  obtain ⟨h1, h2⟩ := h
  refine ⟨?_, h2⟩
  rw [h1, hb, hn, countersWrite_same (show SameFaults t s by rw [ht]; exact pump_same s)]

/-! ### A receipt leaves the two other marks of the counters write -/

/-- t's counters write is armed, and outstanding, as s's is. -/
def SameWriting (s t : State) : Prop :=
  t.fault.countersArmed = s.fault.countersArmed ∧
    t.fault.countersWriting = s.fault.countersWriting

theorem SameWriting.trans {s t u : State} (h : SameWriting s t) (h' : SameWriting t u) :
    SameWriting s u :=
  ⟨h'.1.trans h.1, h'.2.trans h.2⟩

theorem makeRecord_writing (s : State) (e : FaultEvent) : SameWriting s (s.makeRecord e) := by
  rw [makeRecord_full]
  exact ⟨rfl, rfl⟩

theorem summarise_writing (s : State) : SameWriting s s.summarise := by
  unfold State.summarise
  split
  · exact ⟨rfl, rfl⟩
  · exact makeRecord_writing s _

theorem cutCounter_writing (s : State) (o : Nat) : SameWriting s (s.cutCounter o) := by
  obtain ⟨c1, c2, h⟩ := cutCounter_counters s o
  rw [h]
  exact ⟨rfl, rfl⟩

theorem removeNext_writing (s : State) : SameWriting s s.removeNext := by
  unfold State.removeNext
  split
  · exact ⟨rfl, rfl⟩
  · exact (SameWriting.trans (t := s.queued (s.fault.queue.eraseP FaultRecord.leaves)) ⟨rfl, rfl⟩
      (cutCounter_writing _ _)).trans (summarise_writing _)

theorem leaveFuel_writing : ∀ (n : Nat) (s : State), SameWriting s (State.leaveFuel n s)
  | 0, _ => ⟨rfl, rfl⟩
  | n + 1, s => (removeNext_writing s).trans (leaveFuel_writing n _)

theorem takeReceipt_writing (s : State) : SameWriting s s.takeReceipt := by
  unfold State.takeReceipt
  split
  · exact ⟨rfl, rfl⟩
  split
  · exact ⟨rfl, rfl⟩
  split
  · exact ⟨rfl, rfl⟩
  · rename_i o _
    exact SameWriting.trans (t := (s.markTaken o).evaluateAttn) ⟨rfl, rfl⟩ (leaveFuel_writing _ _)

/-! ### Refusals (R131) -/

section Refusals

variable {x : Fin 9} {y : RefusalReason} {z : Option Nat} {u b : State}

/-- A refusal always changes a value of the image. -/
theorem takeRefusal_marks (s : State) (x : Fin 9) (y : RefusalReason) (z : Option Nat) :
    (s.takeRefusal x y z).fault.countersStale = true ∧
      (s.takeRefusal x y z).fault.countersWanted = true ∧
      SameWriting s (s.takeRefusal x y z) := by
  unfold State.takeRefusal
  dsimp only
  split
  · split
    · exact ⟨rfl, rfl, makeRecord_writing _ _⟩
    · exact ⟨rfl, rfl, rfl, rfl⟩
  · exact ⟨rfl, rfl, rfl, rfl⟩

theorem takeRefusal_path (s : State) (x : Fin 9) (y : RefusalReason) (z : Option Nat) :
    (s.takeRefusal x y z).path = s.path := by
  rw [takeRefusal_eq]

/-- One refusal while a counters write is outstanding. -/
theorem refusal_writing (h : SameNotice u b) (hq : (b.takeRefusal x y z).noticeCalled = false)
    (hw : u.fault.countersWriting = true) :
    let v := (u.takeRefusal x y z).issueCounters.runExamination
    v.path = u.path ∧ v.fault.countersWriting = true ∧ v.fault.countersStale = true ∧
      v.fault.countersWanted = true := by
  obtain ⟨h1, h2, -, h3⟩ := takeRefusal_marks u x y z
  have hi : (u.takeRefusal x y z).issueCounters = u.takeRefusal x y z := by
    rw [State.issueCounters, if_neg (by simp [notIssuable_writing (h3.trans hw)])]
  dsimp only
  rw [hi, runExamination_quiet ((noticeCalled_congr (takeRefusal_same h x y z)).trans hq)]
  exact ⟨takeRefusal_path u x y z, h3.trans hw, h1, h2⟩

/-- One refusal while none is outstanding and the stream has room. -/
theorem refusal_issues (h : SameNotice u b) (hq : (b.takeRefusal x y z).noticeCalled = false)
    (hm : u.mode = .running) (ha : u.fault.countersArmed = true)
    (hw : u.fault.countersWriting = false)
    (hr : u.internalCount + u.path.unissued.length < 16) :
    let v := (u.takeRefusal x y z).issueCounters.runExamination
    v.path = { u.path with unissued := u.path.unissued ++
        [(u.takeRefusal x y z).countersWrite u.path.nextSerial] } ∧
      v.fault.countersWriting = true ∧ v.fault.countersStale = false ∧
      v.fault.countersWanted = false := by
  obtain ⟨h1, h2, h4, h3⟩ := takeRefusal_marks u x y z
  have hp := takeRefusal_path u x y z
  have hissuable : (u.takeRefusal x y z).countersIssuable = true := by
    refine issuable_of ?_ (h4.trans ha) h2 (h3.trans hw) ?_
    · rw [takeRefusal_eq]
      exact hm
    · rw [State.internalCount, hp]
      exact hr
  dsimp only
  rw [runExamination_quiet ((noticeCalled_congr (issueCounters_same (takeRefusal_same h x y z))).trans
    hq), State.issueCounters, if_pos hissuable, ← hp]
  exact ⟨rfl, rfl, rfl, rfl⟩

/-- Refusals of one kind taken while a counters write is outstanding. -/
theorem refusals_writing : ∀ (n : Nat) {a : State}, SameNotice a b →
    (∀ k, k ≤ n → (b.afterRefusals x y z k).noticeCalled = false) →
    a.fault.countersWriting = true →
    let u := (List.replicate n (Report.refusal x y z)).foldl
      (fun t r => (t.takeReport r).issueCounters.runExamination) a
    u.path = a.path ∧ u.fault.countersWriting = true ∧
      (n = 0 → u.fault.countersStale = a.fault.countersStale ∧
        u.fault.countersWanted = a.fault.countersWanted) ∧
      (1 ≤ n → u.fault.countersStale = true ∧ u.fault.countersWanted = true)
  | 0, a, _, _, hw => ⟨rfl, hw, fun _ => ⟨rfl, rfl⟩, fun h => absurd h (by decide)⟩
  | n + 1, a, h, hq, hw => by
    have hq' : ∀ k, k ≤ n → (b.afterRefusals x y z k).noticeCalled = false :=
      fun k hk => hq k (Nat.le_succ_of_le hk)
    obtain ⟨h1, h2, -⟩ := refusals_writing n h hq' hw
    obtain ⟨u, more, hu, hs, -⟩ := refusals_quiet x y z b n a h hq'
    rw [hu] at h1 h2
    obtain ⟨v1, v2, v3, v4⟩ := refusal_writing hs (hq (n + 1) (Nat.le_refl _)) h2
    rw [List.replicate_succ', List.foldl_append, hu]
    exact ⟨v1.trans h1, v2, fun h => absurd h (by omega), fun _ => ⟨v3, v4⟩⟩

theorem afterRefusals_first (b : State) (x : Fin 9) (y : RefusalReason) (z : Option Nat) :
    ∀ n, (b.takeRefusal x y z).afterRefusals x y z n = b.afterRefusals x y z (n + 1)
  | 0 => rfl
  | n + 1 => congrArg (fun t : State => t.takeRefusal x y z) (afterRefusals_first b x y z n)

/-- The first of a run of refusals issues the counters write, and the later ones leave the
image stale. -/
theorem refusals_issue {n : Nat} {a : State} (h : SameNotice a b) (hn : 1 ≤ n)
    (hq : ∀ k, k ≤ n → (b.afterRefusals x y z k).noticeCalled = false)
    (hm : a.mode = .running) (ha : a.fault.countersArmed = true)
    (hw : a.fault.countersWriting = false)
    (hr : a.internalCount + a.path.unissued.length < 16) :
    let u := (List.replicate n (Report.refusal x y z)).foldl
      (fun t r => (t.takeReport r).issueCounters.runExamination) a
    u.path = { a.path with unissued := a.path.unissued ++
        [(b.takeRefusal x y z).countersWrite a.path.nextSerial] } ∧
      u.fault.countersWriting = true ∧ (u.fault.countersStale = true ↔ 2 ≤ n) ∧
      (u.fault.countersWanted = true ↔ 2 ≤ n) := by
  obtain ⟨m, rfl⟩ : ∃ m, n = m + 1 := ⟨n - 1, by omega⟩
  obtain ⟨v1, v2, v3, v4⟩ := refusal_issues h (hq 1 hn) hm ha hw hr
  obtain ⟨hs, -⟩ := refusal_quiet h (hq 1 hn)
  have hq' : ∀ k, k ≤ m → ((b.takeRefusal x y z).afterRefusals x y z k).noticeCalled = false :=
    fun k hk => by
      rw [afterRefusals_first]
      exact hq (k + 1) (by omega)
  obtain ⟨u1, u2, u3, u4⟩ := refusals_writing m hs hq' v2
  rw [List.replicate_succ, List.foldl_cons]
  have hlater : ∀ mark : Bool, mark = true → (m = 0 → mark = false) → 2 ≤ m + 1 :=
    fun mark h h0 => by
      by_contra hm
      exact absurd (h.symm.trans (h0 (by omega))) (by decide)
  refine ⟨u1.trans (v1.trans ?_), u2,
    ⟨fun h => hlater _ h fun h0 => (u3 h0).1.trans v3, fun _ => (u4 (by omega)).1⟩,
    ⟨fun h => hlater _ h fun h0 => (u3 h0).2.trans v4, fun _ => (u4 (by omega)).2⟩⟩
  rw [countersWrite_same (takeRefusal_same h x y z).1]

end Refusals

/-! ### The events of R140 -/

section Events

variable {s : State}

/-- What the fault unit has done once it has taken n refusals of one kind. -/
def State.toldRefusals (a : State) (n : Nat) (x : Fin 9) (y : RefusalReason) (z : Option Nat) :
    State :=
  (List.replicate n (Report.refusal x y z)).foldl
    (fun t r => (t.takeReport r).issueCounters.runExamination) a

/-- The end of a step that hands refusals of one kind on, where no notice starts. -/
theorem finish_toldRefusals {a b : State} {n : Nat} {x : Fin 9} {y : RefusalReason}
    {z : Option Nat} (h : SameNotice a b) (hs : Settled a) (hm : a.mode = .running)
    (hq : ∀ k, k ≤ n → (b.afterRefusals x y z k).noticeCalled = false) :
    (a.refusing n x y z).finish =
      { (a.toldRefusals n x y z).pump with transit := Transit.empty } := by
  obtain ⟨u, more, hu, h0, -, -, hr, -⟩ := refusals_quiet x y z b n a h hq
  have hdrain : (a.refusing n x y z).drainReports = u := by
    unfold State.drainReports State.refusing
    rw [← hu, hs]
    dsimp only [Transit.empty, List.nil_append]
    rw [← (show a.transit = ⟨[], false⟩ from hs)]
  have hempty : u.transit.reports = [] := hr.trans (by rw [hs]; rfl)
  have hsettle : (a.refusing n x y z).settle = { u with transit := Transit.empty } := by
    unfold State.settle
    rw [if_pos (by exact hm), hdrain,
      runExamination_quiet ((noticeCalled_congr h0).trans (hq n (Nat.le_refl _)))]
    unfold State.drainReports
    dsimp only
    rw [hempty]
    rfl
  rw [State.finish, hsettle, pump_emptied, State.toldRefusals, hu]

/-- A request refused whole, while a counters write is outstanding once its pieces have been
told. -/
theorem arrive_toldRefusals {r : Request} {reason : RefusalReason} {u : State} (hs : Quiet s)
    (hh : s.path.hold = false) (hp : s.path.port = [])
    (h : Request.refusedWhole r = some reason)
    (hu : (s.withTaken r ((Request.pieces r).map fun c => .notServed c.access.count)).toldRefusals
      (Request.pieceCount r) 8 reason none = u)
    (hout : u.path.outstanding =
      [{ request := r, parts := (Request.pieces r).map fun c => .notServed c.access.count }])
    (hw : u.fault.countersWriting = true)
    (hq : ∀ k, k ≤ Request.pieceCount r →
      ((s.answered r false (Request.zeros r)).afterRefusals 8 reason none k).noticeCalled = false) :
    (s.arrive r).requests = u.requests ∧ (s.arrive r).fault = u.fault := by
  have hfinish : (s.takeRequest r).finish = { u.pump with transit := Transit.empty } := by
    rw [takeRequest_refused h, ← hu]
    exact finish_toldRefusals (a := s.withTaken r _)
      (b := s.answered r false (Request.zeros r)) ⟨⟨rfl, rfl, rfl, rfl⟩, rfl⟩ hs.2 hs.1 hq
  obtain ⟨hrequests, hfault⟩ := pump_notIssuable (notIssuable_writing hw)
  have hwaits : u.pump.path.outstanding = u.path.outstanding := by rw [(pump_requests u).2.1]
  rw [arrive_ready hs.1 hh hp (by simp [State.roomFor, h])
      fun hc => absurd (hc.symm.trans (isControl_refused h)) (by decide), hfinish,
    answer_one (t := { u.pump with transit := Transit.empty }) (by rw [← hout]; exact hwaits)
      (by simp [Part.done]) (isReceipt_notOk (by simp [Part.ok])), finish_settled (by exact rfl)]
  obtain ⟨h1, h2⟩ := pump_notIssuable (s := State.fronted
    { u.pump with transit := Transit.empty } _ _ [] _ _) (notIssuable_writing (by
      show u.pump.fault.countersWriting = true
      rw [hfault, hw]))
  exact ⟨h1.trans hrequests, h2.trans hfault⟩

/-- A step of s whose own effect leaves u, calling for a counters write, where no notice
starts. -/
theorem called_counters {u t : State} (ht : t = u.issueCounters.finish) (hm : u.mode = .running)
    (hx : u.transit.reports = []) (hq : u.transit.examine = true → u.noticeCalled = false)
    (ha : u.fault.countersArmed = true) (hw : u.fault.countersWanted = true)
    (hr : u.internalCount + u.path.unissued.length < 16) :
    t = { u.pump with transit := Transit.empty } ∧
      (u.fault.countersWriting = false → WritesCounters u u t) ∧
      (u.fault.countersWriting = true → t.requests = u.requests ∧ t.fault = u.fault) := by
  have h := ht.trans (issueCounters_examined hm hx hq)
  exact ⟨h, pump_called h hm ha hw hr⟩

/-- The end of a step that hands on one event, which meets a full queue. -/
theorem finish_lost {b : State} {e : FaultEvent} (hs : Settled b) (hm : b.mode = .running)
    (hl : 8 ≤ b.fault.queue.length) :
    (b.handing [e] false).finish = { (b.loseEvent e).pump with transit := Transit.empty } := by
  have hdrain : (b.handing [e] false).drainReports = (b.loseEvent e).issueCounters := by
    have hb : ({ b with transit := { reports := [], examine := false } } : State) = b := by
      rw [← (show b.transit = ⟨[], false⟩ from hs)]
    show ((State.takeEvent { b with transit := { reports := [], examine := false } }
      e).issueCounters).runExamination = _
    rw [hb, takeEvent_full hl, State.runExamination, if_neg]
    rw [issueCounters_transit]
    show ¬b.transit.examine = true
    rw [hs]
    decide
  have htransit : (b.loseEvent e).issueCounters.transit = Transit.empty := by
    rw [issueCounters_transit]
    exact hs
  have hfinish := finish_settled htransit
  have hsettle : (b.handing [e] false).settle = (b.loseEvent e).issueCounters.settle := by
    unfold State.settle
    rw [if_pos (by exact hm), if_pos (by rw [issueCounters_mode]; exact hm), hdrain]
    have hdrain' : (b.loseEvent e).issueCounters.drainReports = (b.loseEvent e).issueCounters := by
      unfold State.drainReports
      rw [htransit]
      show ({ (b.loseEvent e).issueCounters with transit := Transit.empty } : State) = _
      rw [← htransit]
    rw [hdrain']
  rw [State.finish, hsettle]
  change (b.loseEvent e).issueCounters.finish = _
  rw [hfinish, issueCounters_pump, ← (show (b.loseEvent e).pump.transit = Transit.empty by
    rw [pump_transit]; exact hs)]

end Events

/-- Work that is discarded leaves room. -/
theorem discard_room (s : State) (d : Purpose → Bool) :
    (s.discard d).internalCount + (s.discard d).path.unissued.length ≤
      s.internalCount + s.path.unissued.length := by
  have hflight : ∀ l : List Flight, ((l.map (Flight.ignore d)).filter fun f => !f.isPassing).length =
      (l.filter fun f => !f.isPassing).length := by
    intro l
    rw [List.filter_map, List.length_map]
    congr 2
    funext f
    cases f <;> rfl
  have hlength := List.length_filter_le (fun r : InternalRequest => !d r.purpose) s.path.unissued
  simp only [State.internalCount, State.discard, List.length_map, hflight]
  omega

/-- With no record at NO no notice is called for. -/
theorem noticeCalled_none {s : State} (h : s.recordsAtNo = []) : s.noticeCalled = false := by
  have hcall : s.recordsCall = false := by simp [State.recordsCall, h]
  unfold State.noticeCalled
  cases s.noticeWindow with
  | none => simp
  | some w => cases hw : s.window w <;> simp [hw, hcall]

/-- The seal of a notice that returns its records publishes it, and the counters follow. -/
theorem published_writesCounters {s : State} {r : InternalRequest} {rest : List Flight}
    {run : Running} {e : Window} {q : ParcelRecord} {notice : Notice} (hs : Quiet s)
    (harmed : s.fault.countersArmed = true) (hunissued : s.path.unissued = [])
    (hcount : s.internalCount < 16) (hold : Oldest s .headWrite r rest) (hrun : JobRuns s run e q)
    (hp : q.releasePending = false) (hk : run.job.kind = .sealNotice)
    (hn : s.composer.notice = some notice) (hw : s.noticeWindow = some run.job.window)
    (hh : ∀ x ∈ s.fault.queue, x.hostTaken = false ∧ x.office ≠ .no) :
    let b := (s.landed r rest false).withoutJob
    ∃ t, exec (.headLineWriteDone false) s = .next t ∧
      t.composer.published = (s.composer.published + 1) % 4294967296 ∧
      (s.fault.countersWriting = false → WritesCounters b t t) ∧
      (s.fault.countersWriting = true →
        t.requests = b.requests ∧ t.fault.countersStale = true) := by
  intro b
  obtain ⟨ht, he, hq⟩ := landed_jobRuns s r rest false hrun
  have hend := sealCompleted_published (s := s.landed r rest false)
    (by simpa [Settled] using hs.2) hk ht he hq
    ((congrArg Composer.notice (landed_composer ..)).trans hn)
    ((noticeWindow_congr (landed_windows ..)).trans hw)
    (by rw [landed_fault]; exact fun x hx => (hh x hx).1)
  have hresult := (jobResult_passed (failed := sealFailed) (passed := sealCompleted)
    (by rw [ht]) he hq hp).trans hend
  have hpath := landed_path s r rest false
  have hfault := landed_fault s r rest false
  obtain ⟨u, hu, hmode, hreports, hquiet, hmarks, hwanted, hstale, hupath, hpublished⟩ :
      ∃ u, State.jobResult (s.landed r rest false) false sealFailed sealCompleted = u ∧
        u.mode = .running ∧ u.transit.reports = [] ∧ u.noticeCalled = false ∧
        SameWriting s u ∧ u.fault.countersWanted = true ∧ u.fault.countersStale = true ∧
        u.path = b.path ∧
        u.composer.published = (s.composer.published + 1) % 4294967296 := by
    refine ⟨_, hresult, (landed_mode s r rest false).trans hs.1, rfl, ?_, ?_, rfl, rfl, rfl, ?_⟩
    · have hno : (marked (s.landed r rest false).fault.queue notice.ordinals .yes).filter
          (fun x => decide (x.office = .no)) = [] := by
        rw [hfault]
        refine List.filter_eq_nil_iff.mpr fun x hx => ?_
        obtain ⟨y, hy, rfl⟩ := List.mem_map.mp hx
        have hoffice := (hh y hy).2
        split
        · simp
        · simpa using hoffice
      refine noticeCalled_none ?_
      exact hno
    · exact ⟨by rw [← hfault], by rw [← hfault]⟩
    · rw [← landed_composer s r rest false]
  have hexec : exec (.headLineWriteDone false) s = .next u.issueCounters.finish := by
    rw [← hu]
    exact onCompletion_of hold (only .headWrite) rfl false _
  have hroom : u.internalCount + u.path.unissued.length < 16 := by
    have h := discard_room (s.landed r rest false) tagPurpose
    rw [State.internalCount, hold.1] at hcount
    have hlanded : (s.landed r rest false).internalCount + (s.landed r rest false).path.unissued.length
        = (s.path.internal.length + (rest.filter fun f => !f.isPassing).length) +
          s.path.unissued.length := by
      rw [State.internalCount, hpath]
    rw [hlanded] at h
    simp [Flight.isPassing, hunissued] at hcount h
    rw [State.internalCount, hupath]
    exact lt_of_le_of_lt h (by omega)
  obtain ⟨h, h1, h2⟩ := called_counters rfl hmode hreports (fun _ => hquiet)
    (hmarks.1.trans harmed) hwanted hroom
  have hrequests : b.requests = u.requests := by
    rw [State.requests, State.requests, hupath]
  refine ⟨_, hexec, ?_, fun hwriting => ?_, fun hwriting => ?_⟩
  · rw [h, ← hpublished, (pump_requests u).1]
  · exact writesCounters_after (h1 (hmarks.2.trans hwriting)) hrequests (by rw [hupath]) h
  · obtain ⟨w1, w2⟩ := h2 (hmarks.2.trans hwriting)
    exact ⟨w1.trans hrequests.symm, by rw [w2]; exact hstale⟩

/-- A counters write has completed: the next follows when one is wanted. -/
theorem completed_writesCounters {s : State} {r : InternalRequest} {rest : List Flight}
    {error : Bool} (hs : Quiet s) (hold : Oldest s .counters r rest)
    (hunissued : s.path.unissued = []) (hcount : s.internalCount ≤ 16)
    (harmed : s.fault.countersArmed = true) :
    ∃ t, exec (.countersWriteDone error) s = .next t ∧ EndsAs (s.landed r rest error) t [] [] ∧
      (error = true → t.requests = s.requests ∧ t.fault.countersStale = true ∧
        t.fault.countersWriting = false ∧ t.fault.countersWanted = false) ∧
      (error = false → s.fault.countersWanted = false → t.requests = s.requests ∧
        t.fault.countersWriting = false ∧ t.fault.countersStale = s.fault.countersStale) ∧
      (error = false → s.fault.countersWanted = true → WritesCounters s s t) := by
  set u : State := (s.landed r rest error).countersWritten error with hu
  have hexec : exec (.countersWriteDone error) s = .next u.issueCounters.finish :=
    onCompletion_of hold (only .counters) rfl error _
  have hpath : u.path = { s.path with flight := rest } := by
    rw [hu, State.countersWritten]
    split <;> exact landed_path ..
  have hmode : u.mode = .running := by
    rw [hu, State.countersWritten]
    split <;> exact (landed_mode ..).trans hs.1
  have hsettled : Settled u := by
    rw [hu, State.countersWritten]
    split <;> exact (landed_transit ..).trans hs.2
  have hreports : u.transit.reports = [] := by rw [hsettled]; rfl
  have hexamine : u.transit.examine = true → u.noticeCalled = false := fun h => by
    rw [hsettled] at h
    exact absurd h (by decide)
  have hfault : u.fault = if error then
      { s.fault with countersWriting := false, countersStale := true, countersWanted := false }
      else { s.fault with countersWriting := false } := by
    rw [hu, State.countersWritten]
    split <;> simp
  have hrequests : u.requests = s.requests := by rw [State.requests, hpath]; rfl
  have hroom : u.internalCount + u.path.unissued.length < 16 := by
    rw [State.internalCount, hold.1] at hcount
    rw [State.internalCount, hpath]
    simp [Flight.isPassing, hunissued] at hcount ⊢
    omega
  have hend := issueCounters_examined hmode hreports hexamine
  have hsame : SameFaults u s := by
    refine ⟨by rw [hfault]; split <;> rfl, ?_⟩
    rw [hu, State.countersWritten]
    split <;> exact ⟨landed_windows .., landed_time .., landed_composer ..⟩
  have hstays : u.fault.countersWanted = false → ∀ t, t = u.issueCounters.finish →
      t.requests = s.requests ∧ t.fault = u.fault := fun hw t ht => by
    obtain ⟨h1, h2⟩ := pump_notIssuable (notIssuable_wanted hw)
    rw [ht, hend]
    exact ⟨h1.trans hrequests, h2⟩
  refine ⟨_, hexec, ?_, fun he => ?_, fun he hw => ?_, fun he hw => ?_⟩
  · refine issueCounters_finish_marks ((landed_mode ..).trans hs.1) ?_
    have hempty : u.transit = { reports := [], examine := u.transit.examine } := by
      rw [hsettled]
      rfl
    simp only [List.append_nil, List.map_nil]
    rw [← hempty, hu, State.countersWritten]
    split <;> rfl
  · rw [if_pos he] at hfault
    obtain ⟨h1, h2⟩ := hstays (by rw [hfault]) _ rfl
    rw [h2, hfault]
    exact ⟨h1, rfl, rfl, rfl⟩
  · rw [if_neg (by simp [he])] at hfault
    obtain ⟨h1, h2⟩ := hstays (by rw [hfault]; exact hw) _ rfl
    rw [h2, hfault]
    exact ⟨h1, rfl, rfl⟩
  · rw [if_neg (by simp [he])] at hfault
    obtain ⟨h1, h2⟩ := pump_writesCounters (issuable_of hmode (by rw [hfault]; exact harmed)
      (by rw [hfault]; exact hw) (by rw [hfault]) hroom)
    rw [hend]
    refine ⟨?_, h2⟩
    rw [hrequests, countersWrite_same hsame, hpath] at h1
    exact h1

/-- Settles O34. -/
theorem countersWriteCompletes : Obligations.CountersWriteCompletes := by
  refine ⟨fun s hs harmed hunissued hcount => ⟨?refused, ?receipt, ?heartbeat,
    fun _ _ _ _ _ _ hold hrun hp hk hn hw hh =>
      published_writesCounters hs harmed hunissued hcount hold hrun hp hk hn hw hh⟩,
    fun _ _ _ _ hs hold hunissued hcount harmed =>
      completed_writesCounters hs hold hunissued hcount harmed⟩
  case refused =>
    intro r reason hh hp ho hwf h
    refine ⟨_, exec_upstreamRequest hwf s, fun hq => ?_⟩
    have hsame : SameNotice (s.withTaken r ((Request.pieces r).map fun c => .notServed c.access.count))
      (s.answered r false (Request.zeros r)) := ⟨⟨rfl, rfl, rfl, rfl⟩, rfl⟩
    have hpos := pieceCount_pos hwf
    refine ⟨fun hw => ?_, fun hw => ?_⟩
    · obtain ⟨h1, h2, h3, h4⟩ := refusals_issue hsame hpos hq hs.1 harmed hw (by
        show s.internalCount + s.path.unissued.length < 16
        rw [hunissued]
        exact hcount)
      obtain ⟨hr, hf⟩ := arrive_toldRefusals hs hh hp h rfl (by
        rw [State.toldRefusals, h1, State.withTaken, ho]
        rfl) h2 hq
      rw [hr, hf]
      refine ⟨?_, h2, h3, h4⟩
      have hvalues := countersWrite_same (takeRefusal_same (a := s.answered r false (Request.zeros r))
        (b := s) ⟨⟨rfl, rfl, rfl, rfl⟩, rfl⟩ 8 reason none).1 s.path.nextSerial
      rw [State.requests, State.toldRefusals, h1, ← hvalues]
      exact (List.append_assoc s.path.internal s.path.unissued _).symm
    · obtain ⟨h1, h2, -, h4⟩ := refusals_writing _ hsame hq hw
      obtain ⟨hr, hf⟩ := arrive_toldRefusals hs hh hp h rfl (by
        rw [State.toldRefusals, h1, State.withTaken, ho]
        rfl) h2 hq
      rw [hr, hf]
      refine ⟨?_, (h4 hpos).1⟩
      rw [State.requests, State.toldRefusals, h1]
      rfl
  case receipt =>
    intro u hw hq
    obtain ⟨ha, hwriting⟩ := takeReceipt_writing s
    have hpath := takeReceipt_path s
    obtain ⟨-, h1, h2⟩ := called_counters rfl ((takeReceipt_mode s).trans hs.1)
      ((takeReceipt_reports s).trans (by rw [hs.2]; rfl)) (fun _ => hq) (ha.trans harmed) hw (by
        rw [State.internalCount, hpath, hunissued]
        exact hcount)
    have hrequests : u.requests = s.requests := by rw [State.requests, hpath]; rfl
    refine ⟨_, if_pos hs.1, fun hn => ?_, fun hn => ?_⟩
    · obtain ⟨w1, w2⟩ := h1 (hwriting.trans hn)
      exact ⟨by rw [w1, hrequests, hpath], w2⟩
    · obtain ⟨w1, w2⟩ := h2 (hwriting.trans hn)
      exact ⟨w1.trans hrequests, w2⟩
  case heartbeat =>
    intro v hv hr hl
    set b : State := { s with time := { s.time with
      heartbeat := { s.time.heartbeat with mark := Mark.absent, silent := true } } } with hb
    have hreached : s.heartbeatReached = b.handing [watchEvent .controllerSilent none] false :=
      (congrArg State.heartbeatReached (settled_handing hs.2)).trans rfl
    have hexec : exec .heartbeatMarkReached s = .next
        { (b.loseEvent (watchEvent .controllerSilent none)).pump with transit := Transit.empty } := by
      show Host.Outcome.next (s.deliver .heartbeat) = _
      rw [deliver_due (m := .heartbeat) hs.1 (watch_due hv hr), State.actOnReport, hreached,
        finish_lost (b := b) hs.2 hs.1 hl]
    obtain ⟨h1, h2⟩ := pump_called (s := b.loseEvent (watchEvent .controllerSilent none)) rfl hs.1
      harmed rfl (by
        show s.internalCount + s.path.unissued.length < 16
        rw [hunissued]
        exact hcount)
    refine ⟨_, hexec, fun hn => writesCounters_after (h1 hn) rfl rfl rfl, fun hn => ?_⟩
    obtain ⟨w1, w2⟩ := h2 hn
    exact ⟨w1, by rw [w2]; rfl⟩

end Sys2Proof.Machine
end

section
/-! PROOFS. DEFINE_WINDOW, CLEAR_WINDOW and SET_CONTEXT (R4, R5, R82, R131, R133, R143, R163). -/

namespace Sys2Proof.Machine

/-! ### A command whose effect calls for a counters write -/

/-- A step that performs a command whose effect may have changed the marks of the counters
write. -/
theorem endsCommand_marks {s b u : State} {c : Instr} {code : Nat} {words : List Nat}
    {rest : List Flight} {act : List Nat → State → Answer} {status : Status} {detail : Nat}
    (h : ArgumentsRead s code words rest) (hc : exec c s = s.perform code act)
    (ha : act words (s.argued words rest) = { status := status, detail := detail, state := u })
    (hu : ∃ c1 c2 x, u = State.handing { b with
      command := (s.argued words rest).command,
      fault := { b.fault with countersStale := c1, countersWanted := c2 } } [] x)
    (hm : b.mode = .running) (hb : b.command = (s.ended words rest status detail).command)
    (hn : b.path.nextSerial = s.path.nextSerial) :
    EndsCommand s c b [] status detail [] := by
  obtain ⟨c1, c2, x, hu⟩ := hu
  refine ⟨_, exec_of_argumentsRead h hc, ?_⟩
  have hfinish := finishCommand_wanting (s := s)
    (b := { b with fault := { b.fault with countersStale := c1, countersWanted := c2 } })
    (words := words) (rest := rest) (status := status) (detail := detail) (new := [])
    (events := []) (x := x) hb hn
  rw [wantAll_nil] at hfinish
  rw [ha, Answer.finish, hu, hfinish]
  exact issueCounters_finish_marks hm rfl

/-! ### DEFINE_WINDOW (R4, R131, R143) -/

section Define

variable {s : State} {words : List Nat} {w : WindowIndex} {e : Window}

theorem directionOf_code (d : Direction) : directionOf? d.code = some d := by
  cases d <;> rfl

theorem roleOf_code (r : Role) : roleOf? r.code = some r := by
  cases r <;> rfl

theorem defineArguments_of (h1 : argument words 1 = w.val) (h2 : argument words 2 = e.base)
    (h3 : argument words 3 = e.count) (h4 : argument words 4 = e.direction.code)
    (h5 : argument words 5 = e.role.code) (h6 : argument words 6 = e.context.val)
    (hp : e.parcels = List.replicate e.count ParcelRecord.blank) (hc : 1 ≤ e.count)
    (hc' : e.count ≤ 64) (hb : e.base % 2048 = 0) (he : e.base + 2048 * e.count ≤ 16773120)
    (hn : ¬(e.role = .notice ∧ e.direction = .inbound))
    (hr : ¬(e.role = .renewal ∧ e.direction = .outbound)) :
    defineArguments words = .inr (w, e) := by
  rw [(defineArguments_placed (w := w) (by rw [h1, index?_val]) (by omega) (by omega)
    (by omega)).1 e.direction e.role e.context (by rw [h4, directionOf_code])
    (by rw [h5, roleOf_code]) (by rw [h6, index?_val]), if_neg (by tauto), h2, h3, ← hp]

theorem anyWindow_none {test : Window → Bool} (h : ∀ v, ∀ f ∈ s.window v, test f = false) :
    s.anyWindow test = false := by
  refine List.any_eq_false.mpr fun v _ => ?_
  cases hv : s.window v with
  | none => simp
  | some f => simp [h v f hv]

theorem defineRefusal_passed (hp : s.renewal.provisioned = true) (hw : s.window w = none)
    (h : ∀ v, ∀ f ∈ s.window v,
      (e.base + 2048 * e.count ≤ f.base ∨ f.base + 2048 * f.count ≤ e.base) ∧
        ¬(e.role = .notice ∧ f.role = .notice) ∧ ¬(e.role = .renewal ∧ f.role = .renewal)) :
    s.defineRefusal w e = none := by
  have hover : s.anyWindow e.overlaps = false := anyWindow_none fun v f hf => by
    have := (h v f hf).1
    simp [Window.overlaps]
    omega
  have hnotice : ¬(e.role = .notice ∧ s.anyWindow (fun f => decide (f.role = .notice)) = true) := by
    rintro ⟨hr, ha⟩
    rw [anyWindow_none fun v f hf => by simpa using fun hf' => (h v f hf).2.1 ⟨hr, hf'⟩] at ha
    cases ha
  have hrenewal : ¬(e.role = .renewal ∧ s.anyWindow (fun f => decide (f.role = .renewal)) = true) := by
    rintro ⟨hr, ha⟩
    rw [anyWindow_none fun v f hf => by simpa using fun hf' => (h v f hf).2.2 ⟨hr, hf'⟩] at ha
    cases ha
  rw [State.defineRefusal, if_neg (by simp [hp]), if_neg (by simp [hw]), if_neg (by simp [hover]),
    if_neg hnotice, if_neg hrenewal]

/-- The records of a queue with one ordinal keep a value. -/
theorem map_linked (queue : List FaultRecord) (o v : Nat) :
    (queue.map fun r => if some o = some r.ordinal then
      { r with event := { r.event with detailA := v } } else r) = queue.map (freezeRecord o v) := by
  refine List.map_congr_left fun r _ => ?_
  unfold freezeRecord
  by_cases hr : r.ordinal = o
  · rw [if_pos hr, if_pos (congrArg some hr.symm)]
  · rw [if_neg hr, if_neg fun h => hr (Option.some.inj h).symm]

theorem map_unlinked (queue : List FaultRecord) (v : Nat) :
    (queue.map fun r => if none = some r.ordinal then
      { r with event := { r.event with detailA := v } } else r) = queue := by
  simp

/-- A counter starts again, and a record linked to it keeps the value it held. -/
theorem restartCounter_eq (s : State) (x : Fin 9) : ∃ c1 c2, s.restartCounter x =
    { s with fault := { s.fault with
      counters := s.fault.counters.set x RefusalCounter.zero,
      queue := s.fault.queue.map fun r =>
        if (s.counter x).link = some r.ordinal then
          { r with event := { r.event with detailA := (s.counter x).value } } else r,
      countersStale := c1, countersWanted := c2 } } := by
  have hbefore : ∃ q, (s.fault.queue.map fun r => if (s.counter x).link = some r.ordinal then
        { r with event := { r.event with detailA := (s.counter x).value } } else r) = q ∧
      s.restartCounter x =
        if (s.counter x).value = 0 then (s.queued q).setCounter x RefusalCounter.zero
        else ((s.queued q).setCounter x RefusalCounter.zero).countersChanged := by
    refine ⟨_, rfl, ?_⟩
    unfold State.restartCounter
    dsimp only
    cases (s.counter x).link with
    | none => rw [map_unlinked]; rfl
    | some o => rw [map_linked]; rfl
  obtain ⟨q, hq, h⟩ := hbefore
  rw [h, hq]
  by_cases hv : (s.counter x).value = 0
  · exact ⟨s.fault.countersStale, s.fault.countersWanted, if_pos hv⟩
  · exact ⟨true, true, if_neg hv⟩

end Define

/-! ### CLEAR_WINDOW (R5, R133, R143) -/

theorem answerClearWindow_done {s : State} {words : List Nat} {w : WindowIndex} {e : Window}
    (h1 : argument words 1 = w.val) (hw : s.window w = some e)
    (hf : ∀ q ∈ e.parcels, q.state = .free) :
    answerClearWindow words s = .done (s.clearWindow w e) := by
  rw [answerClearWindow, h1, index?_val]
  simp only [hw]
  rw [if_neg (by simpa using hf)]

/-- Records that wait for a notice are withdrawn, and none of them leaves. -/
theorem noticeWindowCleared_untaken {s : State} (h : ∀ r ∈ s.fault.queue, r.hostTaken = false) :
    s.noticeWindowCleared = s.queued (s.fault.queue.map FaultRecord.withdraw) := by
  refine leaveAll_stays fun x hx => ?_
  obtain ⟨r, hr, rfl⟩ := List.mem_map.mp hx
  exact leaves_hostTaken ((withdraw_hostTaken r).trans (h r hr))

theorem withdraw_office (queue : List FaultRecord) :
    (queue.map FaultRecord.withdraw).filter (fun r => decide (r.office = .no)) = [] := by
  refine List.filter_eq_nil_iff.mpr fun x hx => ?_
  obtain ⟨r, -, rfl⟩ := List.mem_map.mp hx
  unfold FaultRecord.withdraw
  split
  · simp
  · rename_i hr
    simp at hr
    simp [hr.1]

theorem setGather_none {s : State} (h : s.recordsAtNo = []) :
    s.setGather = { s with composer := { s.composer with gather := Mark.absent } } := by
  rw [State.setGather, h]

/-- Settles O45. -/
theorem windowCommands : Obligations.WindowCommands := by
  intro s words rest w e hs h1
  refine ⟨fun h h2 h3 h4 h5 h6 hp hc hc' hb hlast hn hr hprov hw hothers => ?define,
    fun h hw hfree => ⟨fun hrole => ?clear, fun hrole hone htaken => ?notice⟩⟩
  case define =>
    have hanswer : answerDefineWindow words (s.argued words rest) =
        .done ((s.argued words rest).defineWindow w e) := by
      rw [answerDefineWindow, defineArguments_of h1 h2 h3 h4 h5 h6 hp hc hc' hb hlast hn hr]
      simp only [defineRefusal_passed (s := s.argued words rest) hprov hw hothers]
    obtain ⟨c1, c2, hrestart⟩ := restartCounter_eq
      (((s.argued words rest).handing [] false).setWindow w (some e)) (windowCounter w)
    refine endsCommand_marks h rfl hanswer ⟨c1, c2, decide (e.role = .notice), ?_⟩ hs.1 rfl rfl
    rw [argued_handing hs.2, State.defineWindow, hrestart]
    by_cases hrole : e.role = .notice
    · simp only [hrole, if_true, decide_true]
      rfl
    · simp only [hrole, if_false, decide_false]
      rfl
  case clear =>
    refine endsCommand_of h rfl ⟨false, ?_⟩ hs.1 rfl rfl
    rw [answerClearWindow_done (s := s.argued words rest) h1 hw hfree, State.clearWindow,
      if_neg hrole, argued_handing hs.2]
    rfl
  case notice =>
    refine endsCommand_of h rfl ⟨false, ?_⟩ hs.1 rfl rfl
    rw [answerClearWindow_done (s := s.argued words rest) h1 hw hfree, State.clearWindow,
      if_pos hrole, noticeWindowCleared_untaken (by exact htaken), State.composerCleared,
      setGather_none (by exact withdraw_office s.fault.queue), argued_handing hs.2]
    rfl

/-! ### SET_CONTEXT (R82, R163) -/

section Settings

variable {s : State} {c : Ctx} {new : Settings} {a : SlotId}

theorem fallbackOf_code {n : Nat} {f : Option Ctx}
    (h : n = 255 ∧ f = none ∨ f.isSome = true ∧ f.map Fin.val = some n) :
    fallbackOf? n = some f := by
  rcases h with ⟨rfl, rfl⟩ | ⟨hs, hf⟩
  · rfl
  · obtain ⟨x, rfl⟩ := Option.isSome_iff_exists.mp hs
    obtain rfl : x.val = n := Option.some.inj hf
    rw [fallbackOf?, if_neg (by have := x.isLt; omega), index?_val]

theorem clampSettings_eq (c : Ctx) (drain parcels ticks low high silence : Nat) (f : Option Ctx) :
    clampSettings c drain parcels ticks low high silence f =
      { drainPeriod := max 1 (min 65535 drain), reserveParcels := min 65535 parcels,
        reserveTicks := min 1073741824 ticks, holdLow := min 65535 low,
        holdHigh := max (min 65535 low) (min 65535 high), linkSilence := min 1073741824 silence,
        fallback := if f = some c then none else f } := by
  simp only [clampSettings, atMost_eq]
  congr 1
  · split <;> omega
  · split <;> omega

/-- HOLD is re-evaluated from the ACTIVE slot's remaining budget. -/
theorem evaluateHold_active (h : s.activeSlot c = some a) :
    s.evaluateHold c = s.updateContext c fun r =>
      { r with holdLine := (s.context c).levelAt ((s.slot a).budget - (s.slot a).usage) } := by
  rw [State.evaluateHold, State.holdLevel, h]
  rfl

theorem evaluateHold_raise (s : State) (e : FaultEvent) (c : Ctx) :
    (s.raise e).evaluateHold c = (s.evaluateHold c).raise e := rfl

theorem evaluateHold_none (h : s.activeSlot c = none) :
    s.evaluateHold c = s.updateContext c fun r => { r with holdLine := true } := by
  rw [State.evaluateHold, State.holdLevel, h]

theorem evaluateRenewalDue_none (h : s.activeSlot c = none) : s.evaluateRenewalDue c = s := by
  rw [State.evaluateRenewalDue, h]

theorem updateContext_twice (s : State) (c : Ctx) (f g : ContextRow → ContextRow) :
    (s.updateContext c f).updateContext c g = s.updateContext c (g ∘ f) := by
  simp [State.updateContext, State.context]

/-- A slot and a row change independently. -/
theorem updateSlot_updateContext (s : State) (c : Ctx) (a : SlotId) (f : ContextRow → ContextRow)
    (g : KeySlot → KeySlot) :
    (s.updateContext c f).updateSlot a g = (s.updateSlot a g).updateContext c f := by
  unfold State.updateSlot
  split <;> rfl

theorem context_updateContext (s : State) (c : Ctx) (f : ContextRow → ContextRow) :
    (s.updateContext c f).context c = f (s.context c) := by
  simp [State.updateContext, State.context]

/-- The ACTIVE slot under new settings, before renewal due is evaluated. -/
def KeySlot.marked (k : KeySlot) (now : Tick) (new : Settings) : KeySlot :=
  { k with
    renewalDueMark := k.expiryMark - BitVec.ofNat 32 new.reserveTicks,
    renewalDueLatch := reached now (k.expiryMark - BitVec.ofNat 32 new.reserveTicks) }

theorem applySettings_none (h : s.activeSlot c = none) :
    s.applySettings c new =
      s.updateContext c fun r => { r with settings := new, holdLine := true } := by
  have h' : (s.updateContext c fun r => { r with settings := new }).activeSlot c = none := h
  unfold State.applySettings
  dsimp only
  rw [h']
  dsimp only
  rw [evaluateRenewalDue_none h', evaluateHold_none h', updateContext_twice]
  rfl

/-- The level of the hold line that the new settings give. -/
def State.newHold (s : State) (c : Ctx) (new : Settings) (a : SlotId) : Bool :=
  ContextRow.levelAt { s.context c with settings := new } ((s.slot a).budget - (s.slot a).usage)

/-- Where the ACTIVE generation has raised RENEWAL_DUE its mark stays. -/
theorem applySettings_raised (h : s.activeSlot c = some a)
    (hr : (s.slot a).renewalDueRaised = true) :
    s.applySettings c new =
      s.updateContext c fun r => { r with settings := new, holdLine := s.newHold c new a } := by
  have h' : (s.updateContext c fun r => { r with settings := new }).activeSlot c = some a := h
  have hslot : (s.updateContext c fun r => { r with settings := new }).slot a = s.slot a := rfl
  have hdue : (s.updateContext c fun r => { r with settings := new }).renewalIsDue c a = false := by
    rw [State.renewalIsDue, hslot, hr]
    rfl
  unfold State.applySettings
  dsimp only
  rw [h']
  dsimp only
  rw [hslot, if_pos hr, evaluateRenewalDue_active h', if_neg (by simp [hdue]),
    evaluateHold_active h', updateContext_twice, context_updateContext, hslot]
  rfl

/-- Renewal due under the new settings. -/
def State.newDue (s : State) (c : Ctx) (new : Settings) (a : SlotId) : Bool :=
  !(s.slot a).renewalDueRaised &&
    (decide ((s.slot a).budget - (s.slot a).usage ≤ new.reserveParcels) ||
      reached s.time.tick ((s.slot a).expiryMark - BitVec.ofNat 32 new.reserveTicks)) &&
    (s.slotsIn c .staged).isEmpty

/-- Otherwise its mark is set anew and renewal due is evaluated. -/
theorem applySettings_active (h : s.activeSlot c = some a)
    (hr : (s.slot a).renewalDueRaised = false) :
    s.applySettings c new =
      let t := (s.updateContext c fun r =>
        { r with settings := new, holdLine := s.newHold c new a }).updateSlot a fun k =>
          { k.marked s.time.tick new with renewalDueRaised := s.newDue c new a }
      if s.newDue c new a then
        t.raise (keyEvent .renewalDue c (s.slot a).generation
          ((s.slot a).budget - (s.slot a).usage) (s.remainingTicks (s.slot a)))
      else t := by
  obtain ⟨ha, -, hstate⟩ := activeSlot_mem h
  have hmarked : (s.updateSlot a (KeySlot.marked · s.time.tick new)).activeSlot c = some a :=
    (activeSlot_congr c (updateSlot_service ⟨rfl, rfl⟩)).trans h
  have hslot : (s.updateSlot a (KeySlot.marked · s.time.tick new)).slot a =
      (s.slot a).marked s.time.tick new := slot_updateSlot_same ha _
  have h1 : (s.updateContext c fun r => { r with settings := new }).activeSlot c = some a := h
  have hmark : State.setRenewalDueMark (s.updateContext c fun r => { r with settings := new }) a
      ((s.slot a).expiryMark - BitVec.ofNat 32 new.reserveTicks) =
      (s.updateSlot a (KeySlot.marked · s.time.tick new)).updateContext c
        fun r => { r with settings := new } := by
    rw [State.setRenewalDueMark, updateSlot_updateContext, updateSlot_eq ha, updateSlot_eq ha]
    rfl
  set v := (s.updateSlot a (KeySlot.marked · s.time.tick new)).updateContext c
    fun r => { r with settings := new } with hv
  have hva : v.activeSlot c = some a := hmarked
  have hvs : v.slot a = (s.slot a).marked s.time.tick new := hslot
  have hdue : v.renewalIsDue c a = s.newDue c new a := by
    have hstaged : v.slotsIn c .staged = s.slotsIn c .staged :=
      slotsIn_congr c .staged (updateSlot_service ⟨rfl, rfl⟩)
    rw [State.renewalIsDue, hvs, hstaged, hv, context_updateContext]
    simp [State.newDue, KeySlot.marked, KeySlot.remaining, hstate]
  unfold State.applySettings
  dsimp only
  rw [h1]
  dsimp only
  rw [show (s.updateContext c fun r => { r with settings := new }).slot a = s.slot a from rfl,
    if_neg (by simp [hr]), hmark, evaluateRenewalDue_active hva, hdue]
  cases hn : s.newDue c new a with
  | false =>
    rw [if_neg (by decide), if_neg (by decide), evaluateHold_active hva, hvs, hv,
      updateContext_twice, context_updateContext, updateSlot_updateContext, updateSlot_eq ha,
      updateSlot_eq ha, KeySlot.marked, hr]
    rfl
  | true =>
    have hevent : keyEvent .renewalDue c (v.slot a).generation (v.slot a).remaining
        (v.remainingTicks (v.slot a)) = keyEvent .renewalDue c (s.slot a).generation
          ((s.slot a).budget - (s.slot a).usage) (s.remainingTicks (s.slot a)) := by
      have htick : v.time = s.time := by
        rw [hv, updateSlot_eq ha]
        rfl
      rw [hvs, State.remainingTicks, htick]
      rfl
    rw [if_pos rfl, if_pos rfl, hevent]
    have hwa : (v.updateSlot a fun k => { k with renewalDueRaised := true }).activeSlot c = some a :=
      (activeSlot_congr c (updateSlot_service ⟨rfl, rfl⟩)).trans hva
    have hws : (v.updateSlot a fun k => { k with renewalDueRaised := true }).slot a =
        { (s.slot a).marked s.time.tick new with renewalDueRaised := true } := by
      rw [slot_updateSlot_same ha, hvs]
    rw [evaluateHold_raise, evaluateHold_active hwa, hws, hv, updateSlot_updateContext,
      updateSlot_twice, updateContext_twice, context_updateContext, updateSlot_updateContext,
      updateSlot_eq ha, updateSlot_eq ha]
    rfl

/-- The period of the link-silence watch is handed over. -/
theorem applyLinkPeriod_handing (s : State) (events : List FaultEvent) (c : Ctx) (n : Nat) :
    ((s.handing events false).applyLinkPeriod c n).noteExamination =
      State.handing
        { s with time := { s.time with
            links := s.time.links.set c
              (if n = 0 then Watch.off
               else { period := n, silent := (s.link c).silent,
                      mark := Mark.set (ahead s.time.tick n) }) } }
        (events ++ if n = 0 ∧ (s.link c).silent = true then
          [watchEvent .linkResumed (some c.val)] else []) true := by
  have hlink : (s.handing events false).link c = s.link c := rfl
  unfold State.applyLinkPeriod
  dsimp only
  rw [hlink]
  by_cases hn : n = 0
  · cases hw : (s.link c).silent
    · simp [hn, State.handing, State.setLink, State.noteExamination]
    · simp [hn, State.handing, State.setLink, State.noteExamination, State.raise]
  · simp [hn, State.handing, State.setLink, State.noteExamination, Watch.restart]

end Settings

/-- Settles O46. -/
theorem setContextReplacesSettings : Obligations.SetContextReplacesSettings := by
  intro s words rest c f hs hone h hc hf row new mark due link
  have hnew : clampSettings c (argument words 2) (argument words 3) (argument words 4)
      (argument words 5) (argument words 6) (argument words 7) f = new := clampSettings_eq ..
  have hanswer : answerSetContext words (s.argued words rest) =
      .done (((s.argued words rest).applySettings c new).applyLinkPeriod c
        new.linkSilence).noteExamination := by
    unfold answerSetContext
    dsimp only
    rw [hc, index?_val]
    dsimp only
    rw [fallbackOf_code hf]
    dsimp only
    rw [hnew]
  refine endsCommand_of h rfl ⟨true, ?_⟩ hs.1 rfl rfl
  rw [hanswer]
  cases ha : s.activeSlot c with
  | none =>
    rw [applySettings_none (by exact ha), argued_handing hs.2, handing_updateContext,
      applyLinkPeriod_handing]
    rfl
  | some a =>
    dsimp only
    cases hr : (s.slot a).renewalDueRaised with
    | true =>
      have hdue : due (s.slot a) = false := by simp [due, hr]
      rw [applySettings_raised (s := s.argued words rest) ha hr, argued_handing hs.2,
        handing_updateContext, applyLinkPeriod_handing, hdue]
      rfl
    | false =>
      have hdue : ((s.argued words rest).handing [] false).newDue c new a = due (s.slot a) := rfl
      rw [applySettings_active (s := s.argued words rest) ha hr, argued_handing hs.2]
      dsimp only
      rw [handing_updateContext, handing_updateSlot, handing_raise, hdue,
        updateSlot_eq (activeSlot_mem ha).1]
      cases due (s.slot a)
      · rw [if_neg (by decide), if_neg (by decide), applyLinkPeriod_handing]
        rfl
      · rw [if_pos rfl, if_pos rfl, applyLinkPeriod_handing]
        rfl

end Sys2Proof.Machine
end

section
/-! PROOFS. Changeover: what one changes, the group that follows it, and the tail it
promotes (R89, R91, R120). -/

namespace Sys2Proof.Machine

/-! ### The slots after one changeover (R89) -/

section Once

variable {s t : State} {c d : Ctx} {h i j : SlotId}

/-- A state in which only slots differ, by its slots. -/
theorem slotsOnly_eq {g : SlotId → KeySlot} (h : SlotsOnly s t) (hg : ∀ i, t.slot i = g i) :
    t = { s with keys := { s.keys with slots := Vector.ofFn g } } := by
  have hslots : t.keys.slots = Vector.ofFn g :=
    Vector.ext fun k hk => by
      rw [Vector.getElem_ofFn]
      exact hg ⟨k, hk⟩
  rw [h.1, hslots]

@[simp] theorem changedOver_slot (s : State) (c : Ctx) (h i : SlotId) :
    (s.changedOver c h).slot i = s.changedSlot c h i :=
  Vector.getElem_ofFn _

/-- A slot that becomes ACTIVE now, before renewal due is evaluated. -/
def KeySlot.activatedAt (k : KeySlot) (now : Tick) (settings : Settings) : KeySlot :=
  { k with
    state := .active, activated := true, expiryMark := ahead now k.lifetime, expiryLatch := false,
    renewalDueMark := ahead now k.lifetime - BitVec.ofNat 32 settings.reserveTicks,
    renewalDueLatch :=
      reached now (ahead now k.lifetime - BitVec.ofNat 32 settings.reserveTicks) }

/-- The slots after the three first steps of a changeover. -/
def State.steppedSlot (s : State) (c : Ctx) (h i : SlotId) : KeySlot :=
  if i = h then (s.slot h).activatedAt s.time.tick (s.context c).settings else s.changedSlot c h i

theorem changedSlot_head (s : State) (c : Ctx) (h : SlotId) :
    s.changedSlot c h h =
      { (s.slot h).activatedAt s.time.tick (s.context c).settings with
        renewalDueRaised := (s.slot h).renewalDueRaised || s.dueAtActivation c h } :=
  if_pos rfl

theorem changedSlot_active (hi : i ≠ h) (ha : s.activeSlot c = some i) :
    s.changedSlot c h i =
      { s.slot i with state := .draining, drainLatch := false,
                      drainDeadline := ahead s.time.tick (s.context c).settings.drainPeriod } :=
  (if_neg hi).trans (if_pos ha)

theorem changedSlot_draining (hi : i ≠ h) (ha : s.activeSlot c ≠ some i)
    (hd : s.drainingSlot c = some i) : s.changedSlot c h i = (s.slot i).leaveService :=
  (if_neg hi).trans ((if_neg ha).trans (if_pos hd))

theorem changedSlot_other (hi : i ≠ h) (ha : s.activeSlot c ≠ some i)
    (hd : s.drainingSlot c ≠ some i) : s.changedSlot c h i = s.slot i :=
  (if_neg hi).trans ((if_neg ha).trans (if_neg hd))

/-- The first step leaves the ACTIVE slot found where it was. -/
theorem retireDraining_activeSlot (s : State) (c : Ctx) :
    (s.retireDraining c).activeSlot c = s.activeSlot c := by
  refine congrArg List.head? (List.filter_congr fun i _ => ?_)
  unfold State.retireDraining
  cases hd : s.drainingSlot c with
  | none => rfl
  | some d =>
    dsimp only
    rw [slot_updateSlot]
    by_cases hi : i = d ∧ d ≠ 0
    · have hstate := (drainingSlot_mem hd).2.2
      rw [if_pos hi, hi.1, hstate]
      unfold KeySlot.leaveService
      split <;> rfl
    · rw [if_neg hi]

theorem retireDraining_at (s : State) (c : Ctx) (i : SlotId) :
    (s.retireDraining c).slot i =
      if s.drainingSlot c = some i then (s.slot i).leaveService else s.slot i := by
  unfold State.retireDraining
  cases hd : s.drainingSlot c with
  | none => rfl
  | some d =>
    dsimp only
    rw [slot_updateSlot]
    by_cases hi : i = d
    · rw [if_pos ⟨hi, (drainingSlot_mem hd).1⟩, if_pos (by rw [hi]), hi]
    · rw [if_neg fun x => hi x.1, if_neg fun x => hi (Option.some.inj x).symm]

/-- The two first steps, at a slot other than the new one. -/
theorem drained_slot (hi : i ≠ h) :
    ((s.retireDraining c).drainActive c).slot i = s.changedSlot c h i := by
  have hactive := retireDraining_activeSlot s c
  unfold State.drainActive
  rw [hactive]
  by_cases ha : s.activeSlot c = some i
  · obtain ⟨h0, -, hstate⟩ := activeSlot_mem ha
    rw [changedSlot_active hi ha, ha]
    dsimp only
    rw [State.startDraining, slot_updateSlot_same h0, retireDraining_slot (by rw [hstate]; decide),
      (retireDraining_only s c).1]
    rfl
  · have hretire : (s.retireDraining c).slot i = s.changedSlot c h i := by
      rw [retireDraining_at]
      by_cases hd : s.drainingSlot c = some i
      · rw [if_pos hd, changedSlot_draining hi ha hd]
      · rw [if_neg hd, changedSlot_other hi ha hd]
    cases hb : s.activeSlot c with
    | none => exact hretire
    | some a =>
      dsimp only
      rw [State.startDraining, slot_updateSlot, if_neg, hretire]
      rintro ⟨rfl, -⟩
      exact ha hb

/-- The three first steps of a changeover to the staged head. -/
theorem stepped_eq (hh : s.stagedHead c = some h) :
    ((s.retireDraining c).drainActive c).makeActive c h =
      { s with keys := { s.keys with slots := Vector.ofFn (s.steppedSlot c h) } } := by
  refine slotsOnly_eq (((retireDraining_only s c).trans (drainActive_only _ c)).trans
    (makeActive_only _ c h)) fun i => ?_
  obtain ⟨h0, -, hstaged⟩ := slotsIn_mem.1 (stagedHead_mem hh)
  have hretire : (s.retireDraining c).slot h = s.slot h :=
    retireDraining_slot (by rw [hstaged]; decide)
  have hdrain : ((s.retireDraining c).drainActive c).slot h = s.slot h :=
    (drainActive_slot (by rw [hretire, hstaged]; decide)).trans hretire
  have hkeys : ∀ t : State, SlotsOnly s t → t.time = s.time ∧ t.context c = s.context c :=
    fun t ht => by
      rw [ht.1]
      exact ⟨rfl, rfl⟩
  obtain ⟨htime, hcontext⟩ := hkeys _ ((retireDraining_only s c).trans (drainActive_only _ c))
  by_cases hi : i = h
  · subst hi
    rw [State.makeActive, State.setRenewalDueMark, updateSlot_twice, slot_updateSlot_same h0,
      hdrain, htime, hcontext, State.steppedSlot, if_pos rfl, updateSlot_time, htime]
    rfl
  · rw [State.makeActive, State.setRenewalDueMark, updateSlot_twice, slot_updateSlot,
      if_neg (by simp [hi]), State.steppedSlot, if_neg hi]
    exact drained_slot hi

/-! ### One changeover, by what it changes and tells -/

theorem steppedSlot_head (s : State) (c : Ctx) (h : SlotId) :
    s.steppedSlot c h h = (s.slot h).activatedAt s.time.tick (s.context c).settings :=
  if_pos rfl

/-- A changeover moves slots into and out of service alike before and after renewal due is
evaluated. -/
theorem steppedSlot_service (s : State) (c : Ctx) (h i : SlotId) :
    (s.changedSlot c h i).state = (s.steppedSlot c h i).state ∧
      (s.changedSlot c h i).context = (s.steppedSlot c h i).context := by
  unfold State.steppedSlot
  by_cases hi : i = h
  · rw [if_pos hi, hi, changedSlot_head]
    exact ⟨rfl, rfl⟩
  · rw [if_neg hi]
    exact ⟨rfl, rfl⟩

/-- A slot that is still staged after a changeover was staged before, was not the head, and
is unchanged. -/
theorem changedSlot_staged (hs : (s.changedSlot c h i).state = .staged) :
    i ≠ h ∧ s.changedSlot c h i = s.slot i := by
  by_cases hi : i = h
  · rw [hi, changedSlot_head] at hs
    cases hs
  refine ⟨hi, ?_⟩
  by_cases ha : s.activeSlot c = some i
  · rw [changedSlot_active hi ha] at hs
    cases hs
  by_cases hd : s.drainingSlot c = some i
  · rw [changedSlot_draining hi ha hd, KeySlot.leaveService] at hs
    split at hs <;> cases hs
  · exact changedSlot_other hi ha hd

/-- Every other staged slot is left. -/
theorem changedSlot_stays (hi : i ≠ h) (hs : (s.slot i).state = .staged) :
    s.changedSlot c h i = s.slot i :=
  changedSlot_other hi (fun ha => by rw [(activeSlot_mem ha).2.2] at hs; cases hs)
    fun hd => by rw [(drainingSlot_mem hd).2.2] at hs; cases hs

theorem changedOver_staged_mem :
    i ∈ (s.changedOver c h).slotsIn d .staged ↔ i ≠ h ∧ i ∈ s.slotsIn d .staged := by
  rw [slotsIn_mem, slotsIn_mem, changedOver_slot]
  constructor
  · rintro ⟨h0, hd, hs⟩
    obtain ⟨hi, hslot⟩ := changedSlot_staged hs
    rw [hslot] at hd hs
    exact ⟨hi, h0, hd, hs⟩
  · rintro ⟨hi, h0, hd, hs⟩
    rw [changedSlot_stays hi hs]
    exact ⟨h0, hd, hs⟩

theorem oneEach_service {s t : State} (h : OneEach s)
    (hs : ∀ i, (t.slot i).state = (s.slot i).state ∧ (t.slot i).context = (s.slot i).context) :
    OneEach t := by
  intro i j hi hj hc hst hin
  rw [(hs i).2, (hs j).2] at hc
  rw [(hs i).1, (hs j).1] at hst
  rw [(hs i).1] at hin
  exact h i j hi hj hc hst hin

/-- The state after the three first steps. -/
def State.stepped (s : State) (c : Ctx) (h : SlotId) : State :=
  { s with keys := { s.keys with slots := Vector.ofFn (s.steppedSlot c h) } }

@[simp] theorem stepped_slot (s : State) (c : Ctx) (h i : SlotId) :
    (s.stepped c h).slot i = s.steppedSlot c h i :=
  Vector.getElem_ofFn _

theorem stepped_one (h1 : OneEach s) (hh : s.stagedHead c = some h) : OneEach (s.stepped c h) := by
  obtain ⟨h0, hc, hstaged⟩ := slotsIn_mem.1 (stagedHead_mem hh)
  obtain ⟨-, a2, a3⟩ := retireDraining_none c h1
  obtain ⟨-, b2, b3⟩ := drainActive_none c a2 a3
  have hretire : (s.retireDraining c).slot h = s.slot h :=
    retireDraining_slot (by rw [hstaged]; decide)
  have hdrain : ((s.retireDraining c).drainActive c).slot h = s.slot h :=
    (drainActive_slot (by rw [hretire, hstaged]; decide)).trans hretire
  have h3 := (makeActive_one c h b2 (by rw [hdrain, hc]) b3).2
  rw [stepped_eq hh] at h3
  exact h3

/-- A changeover keeps one of each. -/
theorem changedOver_one (h1 : OneEach s) (hh : s.stagedHead c = some h) :
    OneEach (s.changedOver c h) :=
  oneEach_service (stepped_one h1 hh) fun i => by
    rw [changedOver_slot, stepped_slot]
    exact steppedSlot_service s c h i

theorem stepped_activeSlot (h1 : OneEach s) (hh : s.stagedHead c = some h) :
    (s.stepped c h).activeSlot c = some h := by
  obtain ⟨h0, hc, -⟩ := slotsIn_mem.1 (stagedHead_mem hh)
  have hslot : (s.stepped c h).slot h =
      (s.slot h).activatedAt s.time.tick (s.context c).settings := by
    rw [stepped_slot, steppedSlot_head]
  exact activeSlot_eq (stepped_one h1 hh) h0 (by rw [hslot]; exact hc) (by rw [hslot]; rfl)

theorem stepped_renewalIsDue (s : State) (c : Ctx) (h : SlotId) :
    (s.stepped c h).renewalIsDue c h = s.dueAtActivation c h := by
  have hstaged : (s.stepped c h).slotsIn c .staged = [] ↔
      ∀ j ∈ s.slotsIn c .staged, j = h := by
    have hmem : ∀ j, j ∈ (s.stepped c h).slotsIn c .staged ↔ j ≠ h ∧ j ∈ s.slotsIn c .staged :=
      fun j => by
        rw [← changedOver_staged_mem (c := c), ← slotsIn_congr c .staged fun i => ?_]
        rw [changedOver_slot, stepped_slot]
        exact steppedSlot_service s c h i
    rw [List.eq_nil_iff_forall_not_mem]
    simp only [hmem]
    exact forall_congr' fun j => by tauto
  have hempty : ((s.stepped c h).slotsIn c .staged).isEmpty =
      (s.slotsIn c .staged).all fun j => decide (j = h) := by
    rw [Bool.eq_iff_iff, List.isEmpty_iff, hstaged]
    simp
  rw [State.renewalIsDue, hempty, stepped_slot, steppedSlot_head]
  simp only [KeySlot.activatedAt, KeySlot.remaining, decide_true, Bool.and_true]
  rfl

/-- The events of a changeover, behind what the step hands on already; the composer
examines. -/
def State.changesMade (s : State) (changes : List (Ctx × SlotId)) : State :=
  { s.changedAll changes with transit :=
      { reports := s.transit.reports ++ (s.changedAllEvents changes).map .event,
        examine := s.transit.examine || !changes.isEmpty } }

/-- s with the slots of one changeover. -/
def State.reslotted (s : State) (c : Ctx) (h : SlotId) : State :=
  { s with keys := { s.keys with slots := Vector.ofFn (s.changedSlot c h) } }

theorem reslotted_slot (s : State) (c : Ctx) (h i : SlotId) :
    (s.reslotted c h).slot i = s.changedSlot c h i :=
  Vector.getElem_ofFn _

theorem stepped_only (hh : s.stagedHead c = some h) : SlotsOnly s (s.stepped c h) := by
  have honly := ((retireDraining_only s c).trans (drainActive_only _ c)).trans
    (makeActive_only _ c h)
  rw [stepped_eq hh] at honly
  exact honly

theorem stepped_notDue (hd : s.dueAtActivation c h = false) : s.stepped c h = s.reslotted c h := by
  have hslots : s.steppedSlot c h = s.changedSlot c h := by
    funext i
    by_cases hi : i = h
    · rw [hi, steppedSlot_head, changedSlot_head, hd, Bool.or_false]
      rfl
    · exact if_neg hi
  rw [State.stepped, hslots]
  rfl

theorem stepped_due (hh : s.stagedHead c = some h) (hd : s.dueAtActivation c h = true) :
    (s.stepped c h).updateSlot h (fun k => { k with renewalDueRaised := true }) =
      s.reslotted c h := by
  obtain ⟨h0, -, -⟩ := slotsIn_mem.1 (stagedHead_mem hh)
  refine slotsOnly_eq ((stepped_only hh).trans (updateSlot_only _ _ _)) fun i => ?_
  by_cases hi : i = h
  · rw [hi, slot_updateSlot_same h0, stepped_slot, steppedSlot_head, changedSlot_head, hd,
      Bool.or_true]
  · rw [slot_updateSlot, if_neg fun x => hi x.1, stepped_slot]
    exact if_neg hi

theorem activeSlot_raise (s : State) (e : FaultEvent) (c : Ctx) :
    (s.raise e).activeSlot c = s.activeSlot c := rfl

theorem slot_raise (s : State) (e : FaultEvent) (i : SlotId) : (s.raise e).slot i = s.slot i := rfl

theorem renewalIsDue_raise (s : State) (e : FaultEvent) (c : Ctx) (i : SlotId) :
    (s.raise e).renewalIsDue c i = s.renewalIsDue c i := rfl

theorem updateSlot_raise (s : State) (e : FaultEvent) (i : SlotId) (f : KeySlot → KeySlot) :
    (s.raise e).updateSlot i f = (s.updateSlot i f).raise e := by
  unfold State.updateSlot
  split <;> rfl

/-- Renewal due, evaluated as the new generation becomes ACTIVE. -/
theorem stepped_evaluateRenewalDue (h1 : OneEach s) (hh : s.stagedHead c = some h)
    (e : FaultEvent) : ((s.stepped c h).raise e).evaluateRenewalDue c =
      if s.dueAtActivation c h = true then
        ((s.reslotted c h).raise e).raise
          (keyEvent .renewalDue c (s.slot h).generation ((s.slot h).budget - (s.slot h).usage)
            (ahead s.time.tick (s.slot h).lifetime - s.time.tick).toNat)
      else (s.reslotted c h).raise e := by
  have hactive := stepped_activeSlot h1 hh
  rw [← activeSlot_raise _ e] at hactive
  rw [evaluateRenewalDue_active hactive, renewalIsDue_raise, stepped_renewalIsDue, slot_raise,
    stepped_slot, steppedSlot_head, updateSlot_raise]
  cases hd : s.dueAtActivation c h with
  | false => rw [if_neg (by decide), if_neg (by decide), stepped_notDue hd]
  | true =>
    rw [if_pos rfl, if_pos rfl, stepped_due hh hd]
    rfl

theorem reslotted_evaluateHold (h1 : OneEach s) (hh : s.stagedHead c = some h) :
    (s.reslotted c h).evaluateHold c = s.changedOver c h := by
  have hactive : (s.reslotted c h).activeSlot c = some h := by
    rw [← stepped_activeSlot h1 hh]
    refine activeSlot_congr c fun i => ?_
    rw [stepped_slot, reslotted_slot]
    exact steppedSlot_service s c h i
  have hcontext : (s.reslotted c h).context c = s.context c := rfl
  rw [evaluateHold_active hactive, reslotted_slot, changedSlot_head, hcontext, State.updateContext,
    hcontext]
  rfl

/-- One changeover. -/
theorem changeoverOnce_made (h1 : OneEach s) (hh : s.stagedHead c = some h) :
    s.changeoverOnce c = s.changesMade [(c, h)] := by
  unfold State.changeoverOnce
  rw [hh]
  dsimp only
  rw [stepped_eq hh]
  change ((((s.stepped c h).raise _).evaluateRenewalDue c).evaluateHold c).noteExamination = _
  rw [stepped_evaluateRenewalDue h1 hh]
  have hevents : s.changedAllEvents [(c, h)] = s.changeoverEvents c h := List.append_nil _
  have hall : s.changedAll [(c, h)] = s.changedOver c h := rfl
  have htransit : s.transit = (s.changedOver c h).transit := rfl
  have hexamine : (s.transit.examine || !List.isEmpty [(c, h)]) = true := Bool.or_true _
  rw [State.changesMade, hevents, State.changeoverEvents]
  cases s.dueAtActivation c h with
  | false =>
    rw [if_neg (by decide), if_neg (by decide), evaluateHold_raise, reslotted_evaluateHold h1 hh,
      hexamine, hall, htransit]
    rfl
  | true =>
    rw [if_pos rfl, if_pos rfl, evaluateHold_raise, evaluateHold_raise,
      reslotted_evaluateHold h1 hh, hexamine, List.map_cons, List.append_cons,
      hall, htransit]
    generalize s.changedOver c h = t
    generalize keyEvent .renewalDue c _ _ _ = e
    rfl

end Once

/-! ### What one changeover leaves to another context -/

section Others

variable {s t : State} {c d : Ctx} {h i j : SlotId}

/-- Among slots whose generations agree the older is found alike. -/
theorem foldl_older_congr : ∀ (l : List SlotId) (i : SlotId),
    (∀ k ∈ i :: l, (t.slot k).generation = (s.slot k).generation) →
    l.foldl t.older i = l.foldl s.older i
  | [], _, _ => rfl
  | j :: l, i, hg => by
    have ho : t.older i j = s.older i j := by
      rw [State.older, State.older, hg i (by simp), hg j (by simp)]
    rw [List.foldl_cons, List.foldl_cons, ho]
    refine foldl_older_congr l _ fun k hk => ?_
    rcases List.mem_cons.mp hk with rfl | hk
    · unfold State.older
      split
      · exact hg j (by simp)
      · exact hg i (by simp)
    · exact hg k (by simp [hk])

theorem stagedHead_congr (hl : t.slotsIn d .staged = s.slotsIn d .staged)
    (hg : ∀ k ∈ s.slotsIn d .staged, (t.slot k).generation = (s.slot k).generation) :
    t.stagedHead d = s.stagedHead d := by
  unfold State.stagedHead
  rw [hl]
  cases hs : s.slotsIn d .staged with
  | nil => rfl
  | cons i l => exact congrArg some (foldl_older_congr l i (hs ▸ hg))

theorem stagedHead_none (h : s.slotsIn d .staged = []) : s.stagedHead d = none := by
  rw [State.stagedHead, h]

theorem slotsIn_nil_of_stagedHead (h : s.stagedHead d = none) : s.slotsIn d .staged = [] := by
  unfold State.stagedHead at h
  cases hs : s.slotsIn d .staged with
  | nil => rfl
  | cons i l => rw [hs] at h; cases h

theorem slotsIn_nodup (s : State) (c : Ctx) (st : SlotState) : (s.slotsIn c st).Nodup :=
  List.Nodup.filter _ (by decide)

/-- A context with one staged slot. -/
theorem stagedHead_single (h : ∀ k, k ∈ s.slotsIn d .staged ↔ k = j) : s.stagedHead d = some j := by
  have hl : s.slotsIn d .staged = [j] := by
    have hnodup := slotsIn_nodup s d .staged
    cases hs : s.slotsIn d .staged with
    | nil => exact absurd ((h j).mpr rfl) (by simp [hs])
    | cons a l =>
      rw [hs] at h hnodup
      obtain rfl : a = j := (h a).mp (by simp)
      cases l with
      | nil => rfl
      | cons b m =>
        obtain rfl : b = a := (h b).mp (by simp)
        simp at hnodup
  rw [State.stagedHead, hl]
  rfl

/-- The staged slots of another context are left. -/
theorem changedOver_staged_other (hh : s.stagedHead c = some h) (hd : d ≠ c) :
    (s.changedOver c h).slotsIn d .staged = s.slotsIn d .staged := by
  have hc := (slotsIn_mem.1 (stagedHead_mem hh)).2.1
  refine List.filter_congr fun i _ => ?_
  rw [changedOver_slot, Bool.eq_iff_iff]
  simp only [Bool.and_eq_true, decide_eq_true_eq]
  constructor
  · rintro ⟨hs, hi⟩
    have hslot := (changedSlot_staged hs).2
    rw [hslot] at hs hi
    exact ⟨hs, hi⟩
  · rintro ⟨hs, hi⟩
    have hne : i ≠ h := by
      rintro rfl
      exact hd (hi.symm.trans hc)
    rw [changedSlot_stays hne hs]
    exact ⟨hs, hi⟩

theorem changedOver_slot_staged (hh : s.stagedHead c = some h) (hd : d ≠ c)
    (hi : i ∈ s.slotsIn d .staged) : (s.changedOver c h).slot i = s.slot i := by
  obtain ⟨-, hid, hs⟩ := slotsIn_mem.1 hi
  rw [changedOver_slot]
  refine changedSlot_stays ?_ hs
  rintro rfl
  exact hd (hid.symm.trans (slotsIn_mem.1 (stagedHead_mem hh)).2.1)

theorem changedOver_stagedHead (hh : s.stagedHead c = some h) (hd : d ≠ c) :
    (s.changedOver c h).stagedHead d = s.stagedHead d :=
  stagedHead_congr (changedOver_staged_other hh hd) fun k hk => by
    rw [changedOver_slot_staged hh hd hk]

/-- A context that follows another in a group activation, with its staged head (R91). -/
def State.follower (s : State) (c d : Ctx) : Option (Ctx × SlotId) :=
  match s.stagedHead d with
  | none => none
  | some h => if d ≠ c ∧ (s.slot h).mode = .withGroup then some (d, h) else none

theorem followers_eq (s : State) (c : Ctx) :
    s.followers c = (s.keys.grouping.group c).filterMap (s.follower c) :=
  rfl

/-- A context with the same head of the same mode follows alike. -/
theorem follower_congr (hh : t.stagedHead d = s.stagedHead d)
    (hm : ∀ h, s.stagedHead d = some h → (t.slot h).mode = (s.slot h).mode) :
    t.follower c d = s.follower c d := by
  unfold State.follower
  rw [hh]
  cases hs : s.stagedHead d with
  | none => rfl
  | some h => simp only [hm h hs]

theorem follower_some {m : Ctx × SlotId} (hm : s.follower c d = some m) :
    d ≠ c ∧ s.stagedHead d = some m.2 ∧ m.1 = d ∧ s.headWithGroup d = true := by
  unfold State.follower at hm
  cases hs : s.stagedHead d with
  | none => rw [hs] at hm; cases hm
  | some h =>
    rw [hs] at hm
    dsimp only at hm
    split at hm
    · rename_i hw
      injection hm with hm
      subst hm
      exact ⟨hw.1, rfl, rfl, by rw [State.headWithGroup, hs]; simpa using hw.2⟩
    · cases hm

theorem follower_of (hd : d ≠ c) (hw : s.headWithGroup d = true) (hh : s.stagedHead d = some h) :
    s.follower c d = some (d, h) := by
  rw [State.headWithGroup, hh] at hw
  rw [State.follower, hh]
  exact if_pos ⟨hd, by simpa using hw⟩

theorem follower_none (hn : s.follower c d = none) (hd : d ≠ c) : s.headWithGroup d = false := by
  cases hw : s.headWithGroup d with
  | false => rfl
  | true =>
    cases hh : s.stagedHead d with
    | none => rw [State.headWithGroup, hh] at hw; cases hw
    | some h => rw [follower_of hd hw hh] at hn; cases hn

theorem follower_changedOver {e : Ctx} (hh : s.stagedHead c = some h) (hd : d ≠ c) :
    (s.changedOver c h).follower e d = s.follower e d :=
  follower_congr (changedOver_stagedHead hh hd) fun k hk => by
    rw [changedOver_slot_staged hh hd (stagedHead_mem hk)]

end Others

/-! ### Changeovers made one after another -/

section Made

variable {s : State} {c : Ctx} {h : SlotId}

theorem changedAll_transit : ∀ (l : List (Ctx × SlotId)) (s : State) (x : Transit),
    State.changedAll { s with transit := x } l = { s.changedAll l with transit := x }
  | [], _, _ => rfl
  | m :: l, s, x => changedAll_transit l (s.changedOver m.1 m.2) x

theorem changedAllEvents_transit : ∀ (l : List (Ctx × SlotId)) (s : State) (x : Transit),
    State.changedAllEvents { s with transit := x } l = s.changedAllEvents l
  | [], _, _ => rfl
  | m :: l, s, x =>
    congrArg (s.changeoverEvents m.1 m.2 ++ ·)
      (changedAllEvents_transit l (s.changedOver m.1 m.2) x)

theorem changedAll_append (l' : List (Ctx × SlotId)) : ∀ (l : List (Ctx × SlotId)) (s : State),
    s.changedAll (l ++ l') = (s.changedAll l).changedAll l'
  | [], _ => rfl
  | m :: l, s => changedAll_append l' l (s.changedOver m.1 m.2)

theorem changedAllEvents_append (l' : List (Ctx × SlotId)) :
    ∀ (l : List (Ctx × SlotId)) (s : State),
    s.changedAllEvents (l ++ l') = s.changedAllEvents l ++ (s.changedAll l).changedAllEvents l'
  | [], _ => rfl
  | m :: l, s => by
    rw [List.cons_append, State.changedAllEvents, State.changedAllEvents,
      changedAllEvents_append l' l (s.changedOver m.1 m.2), List.append_assoc]
    rfl

theorem changesMade_nil (s : State) : s.changesMade [] = s := by
  simp [State.changesMade, State.changedAll, State.changedAllEvents]

theorem changesMade_append (s : State) (l l' : List (Ctx × SlotId)) :
    (s.changesMade l).changesMade l' = s.changesMade (l ++ l') := by
  have hall := changedAll_transit l' (s.changedAll l) (s.changesMade l).transit
  have hevents := changedAllEvents_transit l' (s.changedAll l) (s.changesMade l).transit
  have hstate : ({ s.changedAll l with transit := (s.changesMade l).transit } : State) =
      s.changesMade l := rfl
  have hexamine : (s.transit.examine || !l.isEmpty || !l'.isEmpty) =
      (s.transit.examine || !(l ++ l').isEmpty) := by
    cases l <;> simp
  rw [hstate] at hall hevents
  rw [State.changesMade, hall, hevents, State.changesMade, State.changesMade, changedAll_append,
    changedAllEvents_append, List.map_append, ← List.append_assoc, ← hexamine]

theorem changesMade_keys (s : State) (l : List (Ctx × SlotId)) :
    (s.changesMade l).keys = (s.changedAll l).keys := rfl

theorem changedAll_single (s : State) (c : Ctx) (h : SlotId) :
    s.changedAll [(c, h)] = s.changedOver c h := rfl

theorem changesMade_single (s : State) (c : Ctx) (h : SlotId) :
    (s.changesMade [(c, h)]).keys = (s.changedOver c h).keys := by
  rw [changesMade_keys, changedAll_single]

theorem changesMade_one (h1 : OneEach s) (hh : s.stagedHead c = some h) :
    OneEach (s.changesMade [(c, h)]) :=
  (oneEach_congr (changesMade_single s c h)).2 (changedOver_one h1 hh)

theorem slotsIn_keys {t : State} (h : t.keys = s.keys) (d : Ctx) (st : SlotState) :
    t.slotsIn d st = s.slotsIn d st := by
  unfold State.slotsIn State.slot
  rw [h]

theorem stagedHead_keys {t : State} (h : t.keys = s.keys) (d : Ctx) :
    t.stagedHead d = s.stagedHead d :=
  stagedHead_congr (slotsIn_keys h d .staged) fun k _ => by rw [slot_congr h]

theorem follower_keys {t : State} (h : t.keys = s.keys) (d : Ctx) :
    t.follower c d = s.follower c d :=
  follower_congr (stagedHead_keys h d) fun k _ => by rw [slot_congr h]

/-- Another context follows c alike once a third has changed over. -/
theorem follower_made {d e : Ctx} (hh : s.stagedHead d = some h) (he : e ≠ d) :
    (s.changesMade [(d, h)]).follower c e = s.follower c e :=
  (follower_keys (changesMade_single s d h) e).trans (follower_changedOver hh he)

/-- The changes that a group activation of c makes in the contexts of a list. -/
def State.followersIn (s : State) (c : Ctx) (l : List Ctx) : List (Ctx × SlotId) :=
  l.filterMap (s.follower c)

theorem foldl_followers : ∀ (l : List Ctx) {s : State}, l.Nodup → OneEach s →
    l.foldl (fun t d => if d ≠ c ∧ t.headWithGroup d = true then t.changeoverOnce d else t) s =
      s.changesMade (s.followersIn c l)
  | [], s, _, _ => (changesMade_nil s).symm
  | d :: l, s, hl, h1 => by
    obtain ⟨hd, hl⟩ := List.nodup_cons.mp hl
    rw [List.foldl_cons, State.followersIn]
    cases hf : s.follower c d with
    | none =>
      rw [List.filterMap_cons_none hf, if_neg]
      · exact foldl_followers l hl h1
      · rintro ⟨hdc, hw⟩
        rw [follower_none hf hdc] at hw
        cases hw
    | some m =>
      obtain ⟨hdc, hh, hm, hw⟩ := follower_some hf
      have hnext : (s.changesMade [(d, m.2)]).followersIn c l = s.followersIn c l := by
        refine List.filterMap_congr fun x hx => ?_
        exact follower_made hh fun hxd => hd (hxd ▸ hx)
      rw [List.filterMap_cons_some hf, if_pos ⟨hdc, hw⟩, changeoverOnce_made h1 hh,
        foldl_followers l hl (changesMade_one h1 hh), hnext, changesMade_append, ← hm]
      rfl

theorem group_nodup (g : Grouping) (c : Ctx) : (g.group c).Nodup := by
  revert c
  cases g <;> decide

theorem mem_group (g : Grouping) (c : Ctx) : c ∈ g.group c := by
  revert c
  cases g <;> decide

theorem follower_self (s : State) (c : Ctx) : s.follower c c = none := by
  unfold State.follower
  cases s.stagedHead c with
  | none => rfl
  | some h => exact if_neg fun x => x.1 rfl

/-- The followers of c are the same before and after its own changeover. -/
theorem followers_changedOver (hh : s.stagedHead c = some h) :
    (s.changesMade [(c, h)]).followers c = s.followers c := by
  have hgrouping : (s.changesMade [(c, h)]).keys.grouping = s.keys.grouping := by
    rw [changesMade_single]
    rfl
  rw [followers_eq, followers_eq, hgrouping]
  refine List.filterMap_congr fun d _ => ?_
  by_cases hd : d = c
  · rw [hd, follower_self, follower_self]
  · exact follower_made hh hd

/-- A changeover of c and of the group that follows it. -/
theorem changeover_group (h1 : OneEach s) (hh : s.stagedHead c = some h) :
    (s.changeoverOnce c).groupActivation c = s.changesMade ((c, h) :: s.followers c) := by
  rw [changeoverOnce_made h1 hh, State.groupActivation,
    foldl_followers _ (group_nodup _ _) (changesMade_one h1 hh)]
  have hf : (s.changesMade [(c, h)]).followersIn c
      ((s.changesMade [(c, h)]).keys.grouping.group c) = s.followers c := by
    rw [State.followersIn, ← followers_eq, followers_changedOver hh]
  rw [hf, changesMade_append]
  rfl

end Made

/-! ### A changeover with all that follows it (R89, R91, R120) -/

section Cascade

variable {s : State} {c d : Ctx} {h j : SlotId}

/-- A slot still staged after changeovers was staged before, is none of their heads, and is
unchanged. -/
theorem changedAll_staged : ∀ (l : List (Ctx × SlotId)) {s : State},
    j ∈ (s.changedAll l).slotsIn d .staged →
    j ∈ s.slotsIn d .staged ∧ (s.changedAll l).slot j = s.slot j ∧ ∀ m ∈ l, j ≠ m.2
  | [], _, hj => ⟨hj, rfl, fun _ hm => absurd hm (by simp)⟩
  | m :: l, s, hj => by
    obtain ⟨hmem, hslot, hne⟩ := changedAll_staged l hj
    obtain ⟨hm, hs⟩ := changedOver_staged_mem.1 hmem
    have hstate := (slotsIn_mem.1 hs).2.2
    refine ⟨hs, hslot.trans (by rw [changedOver_slot, changedSlot_stays hm hstate]), ?_⟩
    intro x hx
    rcases List.mem_cons.mp hx with rfl | hx
    · exact hm
    · exact hne x hx

theorem headTriggers_of (hh : s.stagedHead d = some j) :
    s.headTriggers d = true ↔ Triggers s j := by
  rw [State.headTriggers, hh]
  simp [Triggers]

theorem headTriggers_keys {t : State} (hk : t.keys = s.keys) (d : Ctx) :
    t.headTriggers d = s.headTriggers d := by
  unfold State.headTriggers
  rw [stagedHead_keys hk]
  cases s.stagedHead d with
  | none => rfl
  | some h => simp only [slot_congr hk]

/-- No head that changeovers have promoted applies its own trigger. -/
theorem headTriggers_made {l : List (Ctx × SlotId)} {m : Ctx × SlotId} (hm : m ∈ l)
    (hn : ∀ j ∈ s.slotsIn m.1 .staged, j ≠ m.2 → ¬Triggers s j) :
    (s.changesMade l).headTriggers m.1 = false := by
  rw [headTriggers_keys (changesMade_keys s l)]
  cases hh : (s.changedAll l).stagedHead m.1 with
  | none => rw [State.headTriggers, hh]
  | some j =>
    obtain ⟨hj, hslot, hne⟩ := changedAll_staged l (stagedHead_mem hh)
    rw [Bool.eq_false_iff, Ne, headTriggers_of hh, Triggers, hslot]
    exact hn j hj (hne m hm)

theorem foldl_stays {α : Type} {f : State → α → State} {l : List α} {t : State}
    (h : ∀ x ∈ l, f t x = t) : l.foldl f t = t :=
  List.foldlRecOn (motive := fun u => u = t) l f rfl fun _ hu x hx => hu ▸ h x hx

/-- A changeover, by the contexts that change over with it. -/
theorem changeoverFuel_some (n : Nat) (h1 : OneEach s) (hh : s.stagedHead c = some h) :
    State.changeoverFuel (n + 1) s c =
      ((s.keys.grouping.group c).filter fun d => decide (d = c) || s.headWithGroup d).foldl
        (fun t d => if t.headTriggers d then State.changeoverFuel n t d else t)
        (s.changesMade ((c, h) :: s.followers c)) := by
  rw [State.changeoverFuel, if_neg (by simp [hh]), changeover_group h1 hh]

theorem mem_changed (h : SlotId)
    (hd : d ∈ (s.keys.grouping.group c).filter fun d => decide (d = c) || s.headWithGroup d) :
    ∃ m ∈ (c, h) :: s.followers c, m.1 = d := by
  obtain ⟨hg, hc⟩ := List.mem_filter.mp hd
  by_cases hdc : d = c
  · exact ⟨(c, h), List.mem_cons_self, hdc.symm⟩
  · have hw : s.headWithGroup d = true := by simpa [hdc] using hc
    cases hx : s.stagedHead d with
    | none => rw [State.headWithGroup, hx] at hw; cases hw
    | some x =>
      refine ⟨(d, x), List.mem_cons_of_mem _ ?_, rfl⟩
      rw [followers_eq]
      exact List.mem_filterMap.mpr ⟨d, hg, follower_of hdc hw hx⟩

/-- A changeover that brings about those of its group and no other. -/
theorem changeoverFuel_group (n : Nat) (h1 : OneEach s) (hh : s.stagedHead c = some h)
    (hn : ∀ m ∈ (c, h) :: s.followers c, ∀ j ∈ s.slotsIn m.1 .staged, j ≠ m.2 → ¬Triggers s j) :
    State.changeoverFuel (n + 1) s c = s.changesMade ((c, h) :: s.followers c) := by
  rw [changeoverFuel_some n h1 hh]
  refine foldl_stays fun d hd => ?_
  obtain ⟨m, hm, rfl⟩ := mem_changed h hd
  rw [headTriggers_made hm (hn m hm)]
  rfl

/-- A changeover that no group follows: then that of the head it promotes, when that
head's own trigger applies. -/
theorem changeoverFuel_alone (n : Nat) (h1 : OneEach s) (hh : s.stagedHead c = some h)
    (hf : s.followers c = []) :
    State.changeoverFuel (n + 1) s c =
      if (s.changesMade [(c, h)]).headTriggers c = true then
        State.changeoverFuel n (s.changesMade [(c, h)]) c
      else s.changesMade [(c, h)] := by
  have hchanged : (s.keys.grouping.group c).filter (fun d => decide (d = c) || s.headWithGroup d) =
      [c] := by
    have hsub : ∀ d ∈ (s.keys.grouping.group c).filter
        (fun d => decide (d = c) || s.headWithGroup d), d = c := fun d hd => by
      obtain ⟨m, hm, rfl⟩ := mem_changed h hd
      rw [hf] at hm
      rw [List.mem_singleton.mp hm]
    have hmem : c ∈ (s.keys.grouping.group c).filter
        (fun d => decide (d = c) || s.headWithGroup d) :=
      List.mem_filter.mpr ⟨mem_group _ c, by simp⟩
    have hnodup := List.Nodup.filter (fun d => decide (d = c) || s.headWithGroup d)
      (group_nodup s.keys.grouping c)
    exact List.Perm.eq_singleton
      ((List.perm_ext_iff_of_nodup hnodup (List.nodup_singleton c)).mpr fun d =>
        ⟨fun hd => by rw [hsub d hd]; simp, fun hd => by rw [List.mem_singleton.mp hd]; exact hmem⟩)
  rw [changeoverFuel_some n h1 hh, hchanged, hf, List.foldl_cons, List.foldl_nil]

/-- A changeover with all that follows it makes the changes that it brings about. -/
theorem changeover_made {changes : List (Ctx × SlotId)} (h1 : OneEach s)
    (hc : Cascades s c changes) : s.changeover c = s.changesMade changes := by
  obtain ⟨h, hh, hcase⟩ := hc
  rcases hcase with ⟨rfl, hn⟩ | ⟨hf, j, hj, htrigger, hstaged, rfl⟩
  · exact changeoverFuel_group 15 h1 hh hn
  · have hmem : j ∈ s.slotsIn c .staged := (hstaged j).mpr (.inr rfl)
    have hhead : (s.changedOver c h).stagedHead c = some j :=
      stagedHead_single fun k => by
        rw [changedOver_staged_mem, hstaged]
        exact ⟨fun x => x.2.resolve_left x.1, fun x => ⟨x ▸ hj, .inr x⟩⟩
    have hhead' : (s.changesMade [(c, h)]).stagedHead c = some j :=
      (stagedHead_keys (changesMade_single s c h) c).trans hhead
    have hslot : (s.changesMade [(c, h)]).slot j = s.slot j := by
      rw [slot_congr (changesMade_single s c h), changedOver_slot,
        changedSlot_stays hj (slotsIn_mem.1 hmem).2.2]
    have hfollowers : (s.changesMade [(c, h)]).followers c = [] :=
      (followers_changedOver hh).trans hf
    have hnone : ∀ k ∈ (s.changesMade [(c, h)]).slotsIn c .staged, k = j := fun k hk => by
      rw [slotsIn_keys (changesMade_single s c h), changedOver_staged_mem, hstaged] at hk
      exact hk.2.resolve_left hk.1
    rw [State.changeover, changeoverFuel_alone 15 h1 hh hf,
      if_pos ((headTriggers_of hhead').mpr (by rw [Triggers, hslot]; exact htrigger)),
      changeoverFuel_group 14 (changesMade_one h1 hh) hhead', hfollowers, changesMade_append]
    · rfl
    · intro m hm k hk hne
      rw [hfollowers] at hm
      obtain rfl := List.mem_singleton.mp hm
      exact absurd (hnone k hk) hne

end Cascade

end Sys2Proof.Machine
end

section
/-! PROOFS. The activation and expiry marks (R79, R89, R93, R118). -/

namespace Sys2Proof.Machine

/-! ### What a cascade of changeovers depends on -/

section Congr

variable {s t : State} {c d : Ctx} {changes : List (Ctx × SlotId)}

/-- Slots found alike by the staged lists and the groups. -/
def KeySlot.Alike (k k' : KeySlot) : Prop :=
  (k'.state = k.state ∧ k'.context = k.context) ∧ k'.generation = k.generation ∧ k'.mode = k.mode

/-- A change of a slot that leaves it alike. -/
theorem updateSlot_alike {i : SlotId} {f : KeySlot → KeySlot} (h : (s.slot i).Alike (f (s.slot i)))
    (j : SlotId) : (s.slot j).Alike ((s.updateSlot i f).slot j) := by
  rw [slot_updateSlot]
  split
  · rename_i hj
    rw [hj.1]
    exact h
  · exact ⟨⟨rfl, rfl⟩, rfl, rfl⟩

theorem stagedHead_alike (h : ∀ i, (s.slot i).Alike (t.slot i)) (d : Ctx) :
    t.stagedHead d = s.stagedHead d :=
  stagedHead_congr (slotsIn_congr d .staged fun i => (h i).1) fun k _ => (h k).2.1

/-- Changeovers follow alike where the slots are alike and, but for the head of c, apply
their triggers alike. -/
theorem cascades_congr (h : ∀ i, (s.slot i).Alike (t.slot i))
    (hg : t.keys.grouping = s.keys.grouping)
    (hl : ∀ i, s.stagedHead c ≠ some i → (s.slot i).state = .staged →
      (t.slot i).activationLatch = (s.slot i).activationLatch)
    (hc : Cascades s c changes) : Cascades t c changes := by
  have hstaged : ∀ d, t.slotsIn d .staged = s.slotsIn d .staged :=
    fun d => slotsIn_congr d .staged fun i => (h i).1
  have hfollowers : t.followers c = s.followers c := by
    rw [followers_eq, followers_eq, hg]
    exact List.filterMap_congr fun d _ => follower_congr (stagedHead_alike h d) fun k _ => (h k).2.2
  have htriggers : ∀ i, s.stagedHead c ≠ some i → (s.slot i).state = .staged →
      (Triggers t i ↔ Triggers s i) := fun i hi hs => by
    rw [Triggers, Triggers, hl i hi hs, (h i).2.2]
  obtain ⟨x, hx, hcase⟩ := hc
  refine ⟨x, (stagedHead_alike h c).trans hx, ?_⟩
  have hxc := (slotsIn_mem.1 (stagedHead_mem hx)).2.1
  rcases hcase with ⟨rfl, hn⟩ | ⟨hf, j, hj, htrigger, hmem, rfl⟩
  · refine .inl ⟨by rw [hfollowers], fun m hm j hj hne => ?_⟩
    rw [hstaged] at hj
    have hm' : m.1 = c → m.2 = x := by
      intro hmc
      rcases List.mem_cons.mp hm with rfl | hm
      · rfl
      · rw [followers_eq] at hm
        obtain ⟨d, -, hd⟩ := List.mem_filterMap.mp hm
        obtain ⟨hdc, -, hmd, -⟩ := follower_some hd
        exact absurd (hmd.symm.trans hmc) hdc
    rw [htriggers j (fun hjx => ?_) (slotsIn_mem.1 hj).2.2]
    · exact hn m hm j hj hne
    · obtain rfl : x = j := Option.some.inj (hx.symm.trans hjx)
      exact hne (hm' ((slotsIn_mem.1 hj).2.1.symm.trans hxc)).symm
  · refine .inr ⟨hfollowers.trans hf, j, hj, ?_, fun k => ?_, rfl⟩
    · rw [htriggers j (fun hjx => hj (Option.some.inj (hx.symm.trans hjx)).symm)
        (slotsIn_mem.1 ((hmem j).mpr (.inr rfl))).2.2]
      exact htrigger
    · rw [hstaged]
      exact hmem k

theorem oneEach_alike (h1 : OneEach s) (h : ∀ i, (s.slot i).Alike (t.slot i)) : OneEach t :=
  oneEach_service h1 fun i => (h i).1

/-- Changeovers made while a step hands events on. -/
theorem changesMade_handing (s : State) (events : List FaultEvent) (x : Bool)
    (l : List (Ctx × SlotId)) :
    (s.handing events x).changesMade l =
      (s.changedAll l).handing (events ++ s.changedAllEvents l) (x || !l.isEmpty) := by
  unfold State.handing State.changesMade
  rw [changedAll_transit, changedAllEvents_transit, List.map_append]

theorem changeover_handing {events : List FaultEvent} {x : Bool} (h1 : OneEach s)
    (hc : Cascades s c changes) :
    (s.handing events x).changeover c =
      (s.changedAll changes).handing (events ++ s.changedAllEvents changes)
        (x || !changes.isEmpty) := by
  rw [← changesMade_handing]
  exact changeover_made (s := s.handing events x) h1 hc

theorem changedAll_mode : ∀ (l : List (Ctx × SlotId)) (s : State), (s.changedAll l).mode = s.mode
  | [], _ => rfl
  | m :: l, s => changedAll_mode l (s.changedOver m.1 m.2)

end Congr

/-! ### Activation and expiry marks -/

section Marks

variable {s : State} {i : SlotId}

theorem activation_due (hi : i ≠ 0) (hs : (s.slot i).state = .staged)
    (hm : (s.slot i).mode = .atMark) (hl : (s.slot i).activationLatch = false)
    (hr : reached s.time.tick (s.slot i).activationMark = true) :
    s.reportDue (.activation i) = true := by
  simp [State.reportDue, State.activationDue, hi, hs, hm, hl, hr]

end Marks

/-- Settles O40. -/
theorem activationMarkReached : Obligations.ActivationMarkReached := by
  intro s i hs h1 hi hstaged hmode hl hr c latched s1
  have hdue := activation_due hi hstaged hmode hl hr
  have hs1 : s.updateSlot i (fun k => { k with activationLatch := true }) = s1.handing [] false := by
    rw [updateSlot_eq hi]
    exact settled_handing (by exact hs.2)
  have halike : ∀ j, (s.slot j).Alike (s1.slot j) := by
    have h := updateSlot_alike (s := s) (i := i) (f := fun k => { k with activationLatch := true })
      ⟨⟨rfl, rfl⟩, rfl, rfl⟩
    rw [updateSlot_eq hi] at h
    exact h
  refine ⟨fun changes hh hc => ?head, fun hh => ?waits⟩
  case head =>
    have hcascades : Cascades s1 c changes := by
      refine cascades_congr halike rfl (fun j hj _ => ?_) hc
      have hne : j ≠ i := fun x => hj (x ▸ hh)
      have h := slot_updateSlot s i j (fun k => { k with activationLatch := true })
      rw [if_neg fun x => hne x.1, updateSlot_eq hi] at h
      exact congrArg KeySlot.activationLatch h
    refine goesTo_report (m := .activation i) rfl hs.1 hdue
      ((changedAll_mode changes s1).trans hs.1) ⟨false || !changes.isEmpty, ?_⟩
    show s.activationReached i = _
    rw [State.activationReached, if_pos hh, hs1, changeover_handing (oneEach_alike h1 halike) hcascades]
    rfl
  case waits =>
    refine goesTo_report (m := .activation i) rfl hs.1 hdue (by exact hs.1) ⟨false, ?_⟩
    show s.activationReached i = _
    rw [State.activationReached, if_neg hh, hs1]

/-! ### The end of a generation with nothing staged (R93) -/

section Expired

variable {s : State} {c : Ctx} {i : SlotId}

/-- Slot j once the ACTIVE slot i of context c has expired with nothing staged. -/
def State.expiredSlot (s : State) (c : Ctx) (i j : SlotId) : KeySlot :=
  if j = i then
    { s.slot i with
      expiryLatch := true, state := .draining, drainLatch := false,
      drainDeadline := ahead s.time.tick (s.context c).settings.drainPeriod }
  else if s.drainingSlot c = some j then (s.slot j).gone
  else s.slot j

/-- The expired slot drains in the place of the one that drained. -/
theorem startDraining_expired (hi : i ≠ 0) (ha : (s.slot i).state = .active) :
    ((s.updateSlot i fun k => { k with expiryLatch := true }).retireDraining c).startDraining c i =
      { s with keys := { s.keys with slots := Vector.ofFn (s.expiredSlot c i) } } := by
  set u := s.updateSlot i (fun k => { k with expiryLatch := true }) with hu
  have honly : SlotsOnly s (u.retireDraining c) :=
    (updateSlot_only s i _).trans (retireDraining_only _ c)
  have hsame : ∀ t : State, SlotsOnly s t → t.time = s.time ∧ t.context c = s.context c :=
    fun t ht => by
      rw [ht.1]
      exact ⟨rfl, rfl⟩
  obtain ⟨htime, hcontext⟩ := hsame _ honly
  have hui : u.slot i = { s.slot i with expiryLatch := true } := slot_updateSlot_same hi _
  have hdraining : u.drainingSlot c = s.drainingSlot c :=
    congrArg List.head? (slotsIn_congr c .draining (updateSlot_service ⟨rfl, rfl⟩))
  refine slotsOnly_eq (honly.trans (updateSlot_only _ i _)) fun j => ?_
  rw [State.startDraining, slot_updateSlot, State.expiredSlot]
  by_cases hj : j = i
  · rw [if_pos ⟨hj, hi⟩, if_pos hj, retireDraining_slot (by rw [hui, ha]; decide), hui, htime,
      hcontext]
  · have huj : u.slot j = s.slot j := by rw [hu, slot_updateSlot, if_neg fun x => hj x.1]
    rw [if_neg fun x => hj x.1, if_neg hj, retireDraining_at, hdraining, huj]
    rfl

theorem activeSlot_none (h : ∀ j : SlotId, j ≠ 0 → (s.slot j).context = c →
    (s.slot j).state ≠ .active) : s.activeSlot c = none := by
  rw [State.activeSlot, List.head?_eq_none_iff, List.eq_nil_iff_forall_not_mem]
  intro j hj
  obtain ⟨h0, hc, hs⟩ := slotsIn_mem.1 hj
  exact h j h0 hc hs

theorem expired_activeSlot (h1 : OneEach s) (hi : i ≠ 0) (ha : (s.slot i).state = .active)
    (hc : (s.slot i).context = c) :
    State.activeSlot { s with keys := { s.keys with slots := Vector.ofFn (s.expiredSlot c i) } } c =
      none := by
  refine activeSlot_none fun j hj hjc hjs => ?_
  have hslot : State.slot { s with keys := { s.keys with
      slots := Vector.ofFn (s.expiredSlot c i) } } j = s.expiredSlot c i j := Vector.getElem_ofFn _
  rw [hslot, State.expiredSlot] at hjc hjs
  by_cases hji : j = i
  · rw [if_pos hji] at hjs
    cases hjs
  rw [if_neg hji] at hjc hjs
  by_cases hd : s.drainingSlot c = some j
  · rw [if_pos hd, KeySlot.gone] at hjs
    split at hjs <;> cases hjs
  · rw [if_neg hd] at hjc hjs
    exact hji (h1 j i hj hi (hjc.trans hc.symm) (hjs.trans ha.symm) (.inl hjs))

theorem expiry_due (hi : i ≠ 0) (hm : (s.slot i).hasMarks = true)
    (hl : (s.slot i).expiryLatch = false) (hr : reached s.time.tick (s.slot i).expiryMark = true) :
    s.reportDue (.expiry i) = true := by
  simp [State.reportDue, State.expiryDue, hi, hm, hl, hr]

end Expired

/-- Settles O41. -/
theorem expiryMarkReached : Obligations.ExpiryMarkReached := by
  intro s i hs h1 hi hl hr c expired s1
  have hs1 : s.updateSlot i (fun k => { k with expiryLatch := true }) = s1.handing [] false := by
    rw [updateSlot_eq hi]
    exact settled_handing (by exact hs.2)
  have halike : ∀ j, (s.slot j).Alike (s1.slot j) := by
    have h := updateSlot_alike (s := s) (i := i) (f := fun k => { k with expiryLatch := true })
      ⟨⟨rfl, rfl⟩, rfl, rfl⟩
    rw [updateSlot_eq hi] at h
    exact h
  have hdue : (s.slot i).state = .active ∨ (s.slot i).activated = true →
      s.reportDue (.expiry i) = true := fun h =>
    expiry_due hi (by simpa [KeySlot.hasMarks] using h) hl hr
  refine ⟨fun changes ha hc => ?staged, fun ha hv => ?left, fun ha hh => ?nothing⟩
  case staged =>
    have hcascades : Cascades s1 c changes := by
      refine cascades_congr halike rfl (fun j _ hj => ?_) hc
      have hne : j ≠ i := by
        rintro rfl
        rw [ha] at hj
        cases hj
      have h := slot_updateSlot s i j (fun k => { k with expiryLatch := true })
      rw [if_neg fun x => hne x.1, updateSlot_eq hi] at h
      exact congrArg KeySlot.activationLatch h
    have hsome : (s1.stagedHead c).isSome = true := by
      obtain ⟨h, hh, -⟩ := hcascades
      rw [hh]
      rfl
    refine goesTo_report (m := .expiry i) rfl hs.1 (hdue (.inl ha))
      ((changedAll_mode changes s1).trans hs.1) ⟨false || !changes.isEmpty, ?_⟩
    show s.expiryReached i = _
    rw [State.expiryReached, if_neg (by simp [ha]), hs1,
      if_pos (by exact hsome), changeover_handing (oneEach_alike h1 halike) hcascades]
    rfl
  case left =>
    refine goesTo_report (m := .expiry i) rfl hs.1 (hdue (.inr hv)) (by exact hs.1) ⟨false, ?_⟩
    show s.expiryReached i = _
    rw [State.expiryReached, if_pos ha, hs1]
  case nothing =>
    have hnone : ¬(State.stagedHead (s.updateSlot i fun k => { k with expiryLatch := true })
        c).isSome = true := by
      have h := stagedHead_alike (updateSlot_alike (s := s) (i := i)
        (f := fun k => { k with expiryLatch := true }) ⟨⟨rfl, rfl⟩, rfl, rfl⟩) c
      rw [h, hh]
      decide
    refine goesTo_report (m := .expiry i) rfl hs.1 (hdue (.inl ha)) (by exact hs.1) ⟨false, ?_⟩
    show s.expiryReached i = _
    rw [State.expiryReached, if_neg (by simp [ha]), if_neg hnone, startDraining_expired hi ha,
      evaluateHold_raise, evaluateHold_none (expired_activeSlot h1 hi ha rfl)]
    exact raise_settled (by exact hs.2) _

end Sys2Proof.Machine
end

section
/-! PROOFS. ACTIVATE_NOW and RETIRE (R90, R95). -/

namespace Sys2Proof.Machine

/-! ### Changeovers read the key table and the tick -/

section Keys

variable {s u : State}

/-- The parts of the state a changeover reads agree. -/
def SameKeys (s u : State) : Prop :=
  u.keys = s.keys ∧ u.time.tick = s.time.tick

theorem changedOver_sameKeys (h : SameKeys s u) (c : Ctx) (i : SlotId) :
    u.changedOver c i = { u with keys := (s.changedOver c i).keys } ∧
      u.changeoverEvents c i = s.changeoverEvents c i := by
  obtain ⟨hk, ht⟩ := h
  unfold State.changedOver State.changeoverEvents State.changedSlot State.dueAtActivation
    State.activeSlot State.drainingSlot State.slotsIn State.context State.slot
  rw [hk, ht]
  exact ⟨rfl, rfl⟩

theorem changedAll_sameKeys : ∀ (l : List (Ctx × SlotId)) {s u : State}, SameKeys s u →
    u.changedAll l = { u with keys := (s.changedAll l).keys } ∧
      u.changedAllEvents l = s.changedAllEvents l
  | [], _, _, h => ⟨by rw [State.changedAll, State.changedAll, ← h.1], rfl⟩
  | m :: l, s, u, h => by
    obtain ⟨h1, h2⟩ := changedOver_sameKeys h m.1 m.2
    have hnext : SameKeys (s.changedOver m.1 m.2) (u.changedOver m.1 m.2) := by
      rw [h1]
      exact ⟨rfl, h.2⟩
    obtain ⟨h3, h4⟩ := changedAll_sameKeys l hnext
    refine ⟨?_, by rw [State.changedAllEvents, State.changedAllEvents, h2, h4]⟩
    rw [State.changedAll, h3, h1]
    rfl

end Keys

/-! ### The slot that RETIRE takes out of service -/

section Retire

variable {s : State} {c d : Ctx} {i j h : SlotId}

/-- s once slot i has left service. -/
def State.withoutSlot (s : State) (i : SlotId) : State :=
  { s with keys := { s.keys with slots := s.keys.slots.set i (s.slot i).gone } }

theorem updateSlot_leaveService (hi : i ≠ 0) :
    s.updateSlot i KeySlot.leaveService = s.withoutSlot i :=
  updateSlot_eq hi _

theorem withoutSlot_slot (s : State) (i j : SlotId) :
    (s.withoutSlot i).slot j = if j = i then (s.slot i).gone else s.slot j := by
  by_cases hj : j = i
  · rw [if_pos hj, hj]
    exact Vector.getElem_set_self _
  · rw [if_neg hj]
    exact Vector.getElem_set_ne i.isLt j.isLt fun x => hj (Fin.ext x).symm

theorem gone_state (k : KeySlot) : k.gone.state = .empty ∨ k.gone.state = .retiring := by
  unfold KeySlot.gone
  split
  · exact .inl rfl
  · exact .inr rfl

/-- A slot in service once slot i has left. -/
theorem withoutSlot_mem {st : SlotState} (hst : st ≠ .empty ∧ st ≠ .retiring) :
    j ∈ (s.withoutSlot i).slotsIn d st ↔ j ≠ i ∧ j ∈ s.slotsIn d st := by
  rw [slotsIn_mem, slotsIn_mem, withoutSlot_slot]
  by_cases hj : j = i
  · rw [if_pos hj]
    refine ⟨fun ⟨_, _, hs⟩ => ?_, fun x => absurd hj x.1⟩
    rcases gone_state (s.slot i) with hg | hg
    · exact absurd (hs.symm.trans hg) hst.1
    · exact absurd (hs.symm.trans hg) hst.2
  · rw [if_neg hj]
    tauto

theorem withoutSlot_one (h1 : OneEach s) (hi : i ≠ 0) : OneEach (s.withoutSlot i) := by
  rw [← updateSlot_leaveService hi]
  exact oneEach_update h1 (leaveService_same _ _)

theorem withoutSlot_active (h1 : OneEach s) (hi : i ≠ 0) (hc : (s.slot i).context = c)
    (ha : (s.slot i).state = .active) : (s.withoutSlot i).activeSlot c = none := by
  refine activeSlot_none fun j hj hjc hjs => ?_
  obtain ⟨hne, hmem⟩ := (withoutSlot_mem (st := .active) (by decide)).1
    (slotsIn_mem.2 ⟨hj, hjc, hjs⟩)
  obtain ⟨-, hjc', hjs'⟩ := slotsIn_mem.1 hmem
  exact hne (h1 j i hj hi (hjc'.trans hc.symm) (hjs'.trans ha.symm) (.inl hjs'))

/-- Where another slot is ACTIVE it stays so. -/
theorem withoutSlot_activeSlot (ha : (s.slot i).state ≠ .active) (c : Ctx) :
    (s.withoutSlot i).activeSlot c = s.activeSlot c := by
  refine congrArg List.head? (List.filter_congr fun j _ => ?_)
  rw [withoutSlot_slot]
  by_cases hj : j = i
  · rw [if_pos hj, hj]
    rcases gone_state (s.slot i) with hg | hg <;> simp [hg, ha]
  · rw [if_neg hj]

/-- The hold line of context c as a re-evaluation leaves it. -/
def State.heldBy (s : State) (c : Ctx) : Bool :=
  match s.activeSlot c with
  | none => true
  | some a => (s.context c).levelAt ((s.slot a).budget - (s.slot a).usage)

theorem evaluateHold_eq (s : State) (c : Ctx) :
    s.evaluateHold c = s.updateContext c fun r => { r with holdLine := s.heldBy c } := by
  unfold State.heldBy
  cases h : s.activeSlot c with
  | none => exact evaluateHold_none h
  | some a => exact evaluateHold_active h

/-- The hold line once slot i has left service. -/
theorem withoutSlot_heldBy (h1 : OneEach s) (hi : i ≠ 0) (hc : (s.slot i).context = c) :
    (s.withoutSlot i).heldBy c = if (s.slot i).state = .active then true else s.heldBy c := by
  unfold State.heldBy
  by_cases ha : (s.slot i).state = .active
  · rw [if_pos ha, withoutSlot_active h1 hi hc ha]
  · rw [if_neg ha, withoutSlot_activeSlot ha]
    cases hx : s.activeSlot c with
    | none => rfl
    | some a =>
      have hne : a ≠ i := by
        rintro rfl
        exact ha (activeSlot_mem hx).2.2
      dsimp only
      rw [withoutSlot_slot, if_neg hne]
      rfl

end Retire

/-! ### A second evaluation of the hold line -/

section Hold

variable {s : State} {c d : Ctx} {h : SlotId}

/-- Re-evaluating the hold line of c changes nothing. -/
def HoldSettled (s : State) (c : Ctx) : Prop :=
  s.heldBy c = (s.context c).holdLine

theorem evaluateHold_settled (h : HoldSettled s c) : s.evaluateHold c = s := by
  have hc : (s.keys.contexts.set c { s.context c with holdLine := s.heldBy c }) =
      s.keys.contexts := by
    rw [h]
    exact Vector.set_getElem_self _
  rw [evaluateHold_eq, State.updateContext, hc]

theorem changedOver_activeSlot (h1 : OneEach s) (hh : s.stagedHead c = some h) :
    (s.changedOver c h).activeSlot c = some h := by
  have hslot : (s.changedOver c h).slot h = _ :=
    (changedOver_slot s c h h).trans (changedSlot_head s c h)
  obtain ⟨h0, hc, -⟩ := slotsIn_mem.1 (stagedHead_mem hh)
  exact activeSlot_eq (changedOver_one h1 hh) h0 (by rw [hslot]; exact hc) (by rw [hslot]; rfl)

theorem levelAt_twice (row : ContextRow) (left : Nat) :
    ContextRow.levelAt { row with holdLine := row.levelAt left } left = row.levelAt left := by
  simp only [ContextRow.levelAt]
  split
  · rfl
  · split <;> rfl

theorem changedOver_holdSettled (h1 : OneEach s) (hh : s.stagedHead c = some h) :
    HoldSettled (s.changedOver c h) c := by
  have hcontext : (s.changedOver c h).context c = { s.context c with
      holdLine := (s.context c).levelAt ((s.slot h).budget - (s.slot h).usage) } :=
    Vector.getElem_set_self _
  rw [HoldSettled, State.heldBy, changedOver_activeSlot h1 hh]
  dsimp only
  rw [hcontext, changedOver_slot, changedSlot_head]
  exact levelAt_twice _ _

/-- A changeover leaves the slots of another context. -/
theorem changedSlot_otherContext {i : SlotId} (hh : s.stagedHead d = some h)
    (hi : (s.slot i).context ≠ d) : s.changedSlot d h i = s.slot i :=
  changedSlot_other (fun x => hi (x ▸ (slotsIn_mem.1 (stagedHead_mem hh)).2.1))
    (fun x => hi (activeSlot_mem x).2.1) fun x => hi (drainingSlot_mem x).2.1

/-- A slot that a changeover leaves ACTIVE in another context was there before. -/
theorem changedOver_activeSlot_other (hh : s.stagedHead d = some h) (hcd : c ≠ d) :
    (s.changedOver d h).activeSlot c = s.activeSlot c := by
  refine congrArg List.head? (List.filter_congr fun i _ => ?_)
  rw [changedOver_slot]
  by_cases hi : (s.slot i).context = d
  · have hleft : (s.slot i).context ≠ c := fun x => hcd (x.symm.trans hi)
    have hnot : (s.changedSlot d h i).state = .active → (s.changedSlot d h i).context ≠ c := by
      intro hs
      by_cases hih : i = h
      · rw [hih, changedSlot_head]
        exact fun x => hcd (x.symm.trans (slotsIn_mem.1 (stagedHead_mem hh)).2.1)
      by_cases ha : s.activeSlot d = some i
      · rw [changedSlot_active hih ha] at hs
        cases hs
      by_cases hdr : s.drainingSlot d = some i
      · rw [changedSlot_draining hih ha hdr, KeySlot.leaveService] at hs
        split at hs <;> cases hs
      · rw [changedSlot_other hih ha hdr]
        exact hleft
    rw [Bool.eq_iff_iff]
    simp only [Bool.and_eq_true, decide_eq_true_eq]
    exact ⟨fun x => absurd x.2 (hnot x.1), fun x => absurd x.2 hleft⟩
  · rw [changedSlot_otherContext hh hi]

theorem changedOver_holdSettled_other (hh : s.stagedHead d = some h) (hcd : c ≠ d)
    (hs : HoldSettled s c) : HoldSettled (s.changedOver d h) c := by
  have hcontext : (s.changedOver d h).context c = s.context c :=
    Vector.getElem_set_ne d.isLt c.isLt fun x => hcd (Fin.ext x).symm
  rw [HoldSettled, State.heldBy] at hs ⊢
  rw [changedOver_activeSlot_other hh hcd, hcontext]
  cases ha : s.activeSlot c with
  | none => rw [ha] at hs; exact hs
  | some a =>
    rw [ha] at hs
    dsimp only at hs ⊢
    rw [changedOver_slot, changedSlot_otherContext hh]
    · exact hs
    · rw [(activeSlot_mem ha).2.1]
      exact hcd

/-- What changeovers of other contexts keep, the contexts that follow c keep. -/
theorem changedAll_followers {P : State → Prop}
    (hP : ∀ {t : State} {d : Ctx} {h : SlotId}, t.stagedHead d = some h → c ≠ d → P t →
      P (t.changedOver d h)) : ∀ (l : List Ctx) {s : State}, l.Nodup → P s →
    P (s.changedAll (s.followersIn c l))
  | [], s, _, hs => hs
  | x :: l, s, hl, hs => by
    obtain ⟨hx, hl⟩ := List.nodup_cons.mp hl
    rw [State.followersIn]
    cases hf : s.follower c x with
    | none =>
      rw [List.filterMap_cons_none hf]
      exact changedAll_followers hP l hl hs
    | some m =>
      obtain ⟨hxc, hh, hm, -⟩ := follower_some hf
      have hnext : (s.changedOver x m.2).followersIn c l = s.followersIn c l :=
        List.filterMap_congr fun y hy => follower_changedOver hh fun hyx => hx (hyx ▸ hy)
      have ih := changedAll_followers hP l hl (hP hh hxc.symm hs)
      rw [hnext] at ih
      rw [List.filterMap_cons_some hf, State.changedAll, hm]
      exact ih

/-- What the changeover of c brings about and those of other contexts keep, holds once its
group has changed over. -/
theorem changedAll_group {P : State → Prop}
    (hP : ∀ {t : State} {d : Ctx} {h : SlotId}, t.stagedHead d = some h → c ≠ d → P t →
      P (t.changedOver d h)) (hh : s.stagedHead c = some h) (hs : P (s.changedOver c h)) :
    P (s.changedAll ((c, h) :: s.followers c)) := by
  have hf : (s.changedOver c h).followersIn c (s.keys.grouping.group c) = s.followers c := by
    refine List.filterMap_congr fun d _ => ?_
    by_cases hd : d = c
    · rw [hd, follower_self]
      exact (follower_self s c).symm
    · exact follower_changedOver hh hd
  have h := changedAll_followers hP (s.keys.grouping.group c) (group_nodup _ c) hs
  rw [hf] at h
  exact h

/-- A changeover with its group leaves the hold line of c evaluated. -/
theorem changedAll_holdSettled (h1 : OneEach s) (hh : s.stagedHead c = some h) :
    HoldSettled (s.changedAll ((c, h) :: s.followers c)) c :=
  changedAll_group changedOver_holdSettled_other hh (changedOver_holdSettled h1 hh)

end Hold

/-! ### A head promoted by RETIRE (R95, R120) -/

section Promoted

variable {s : State} {c : Ctx} {j : SlotId} {changes : List (Ctx × SlotId)}

theorem changeover_nothing (h : s.stagedHead c = none) : s.changeover c = s := by
  rw [State.changeover, State.changeoverFuel, if_pos (by rw [h]; rfl)]

/-- The only staged slot of c changes over, when its trigger or exhaustion calls for it. -/
theorem headPromoted_made (h1 : OneEach s) (hj : ∀ k, k ∈ s.slotsIn c .staged ↔ k = j)
    (hcall : Triggers s j ∨ s.exhausted c = true) (hc : Cascades s c changes) :
    s.headPromoted c = s.changesMade changes ∧ HoldSettled (s.changedAll changes) c := by
  have hhead := stagedHead_single hj
  have hmade := changeover_made h1 hc
  obtain ⟨h, hh, hcase⟩ := hc
  obtain rfl : j = h := Option.some.inj (hhead.symm.trans hh)
  have hchanges : changes = (c, j) :: s.followers c := by
    rcases hcase with ⟨hchanges, -⟩ | ⟨-, k, hk, -, hmem, -⟩
    · exact hchanges
    · exact absurd ((hj k).mp ((hmem k).mpr (.inr rfl))) hk
  have hnone : (s.changesMade changes).stagedHead c = none := by
    refine stagedHead_none ?_
    rw [slotsIn_keys (changesMade_keys s changes), List.eq_nil_iff_forall_not_mem]
    intro k hk
    obtain ⟨hmem, -, hne⟩ := changedAll_staged changes hk
    exact hne (c, j) (by rw [hchanges]; exact List.mem_cons_self) ((hj k).mp hmem)
  refine ⟨?_, by rw [hchanges]; exact changedAll_holdSettled h1 hh⟩
  unfold State.headPromoted
  by_cases ht : s.headTriggers c = true
  · simp only [if_pos ht, hmade, changeover_nothing hnone, ite_self]
  · have hex : s.exhausted c = true :=
      hcall.resolve_left fun x => ht ((headTriggers_of hhead).mpr x)
    simp only [if_neg ht, if_pos hex, hmade]

/-- A promoted head that neither is triggered nor has to replace an exhausted generation. -/
theorem headPromoted_waits (hj : ∀ k, k ∈ s.slotsIn c .staged ↔ k = j) (ht : ¬Triggers s j)
    (hex : s.exhausted c = false) : s.headPromoted c = s := by
  have ht' : ¬s.headTriggers c = true := fun x => ht ((headTriggers_of (stagedHead_single hj)).mp x)
  simp only [State.headPromoted, if_neg ht', if_neg (show ¬s.exhausted c = true by simp [hex])]

end Promoted

/-! ### RETIRE (R95) -/

section RetireSlot

variable {s : State} {c : Ctx} {i j a : SlotId}

theorem handing_evaluateHold (s : State) (events : List FaultEvent) (x : Bool) (c : Ctx) :
    (s.handing events x).evaluateHold c = (s.evaluateHold c).handing events x := rfl

/-- The record of a generation that is retired. -/
def State.retiredEvent (s : State) (c : Ctx) (i : SlotId) : FaultEvent :=
  keyEvent .keyRetired c (s.slot i).generation 0 0

theorem retireSlot_eq (hs : Settled s) (hi : i ≠ 0) :
    s.retireSlot c i = State.evaluateHold
      (let gone := (s.withoutSlot i).handing [s.retiredEvent c i] false
       if (s.slot i).state = .staged then
         if ((s.withoutSlot i).slotsIn c .staged).isEmpty then gone.evaluateRenewalDue c
         else if s.stagedHead c = some i then gone.headPromoted c
         else gone
       else gone) c := by
  have hgone : (s.updateSlot i KeySlot.leaveService).raise
      (keyEvent .keyRetired c (s.slot i).generation 0 0) =
      (s.withoutSlot i).handing [s.retiredEvent c i] false := by
    rw [updateSlot_leaveService hi]
    exact raise_settled (s := s.withoutSlot i) hs _
  unfold State.retireSlot
  dsimp only
  rw [hgone]
  rfl

/-- s once slot i has left service and the hold line of its context has followed. -/
def State.leftSlot (s : State) (c : Ctx) (i : SlotId) : State :=
  (s.withoutSlot i).updateContext c fun r =>
    { r with holdLine := if (s.slot i).state = .active then true else s.heldBy c }

theorem withoutSlot_evaluateHold (h1 : OneEach s) (hi : i ≠ 0) (hc : (s.slot i).context = c) :
    (s.withoutSlot i).evaluateHold c = s.leftSlot c i := by
  rw [evaluateHold_eq, withoutSlot_heldBy h1 hi hc]
  rfl

/-- RETIRE of a slot whose leaving promotes nothing. -/
theorem retireSlot_left (hs : Settled s) (h1 : OneEach s) (hi : i ≠ 0)
    (hc : (s.slot i).context = c) (hn : (s.slot i).state = .staged → s.stagedHead c ≠ some i) :
    s.retireSlot c i = (s.leftSlot c i).handing [s.retiredEvent c i] false := by
  rw [retireSlot_eq hs hi]
  dsimp only
  by_cases hst : (s.slot i).state = .staged
  · have hnot : ¬((s.withoutSlot i).slotsIn c .staged).isEmpty = true := by
      rw [List.isEmpty_iff, List.eq_nil_iff_forall_not_mem]
      intro hall
      cases hh : s.stagedHead c with
      | none =>
        have := slotsIn_nil_of_stagedHead hh
        exact absurd (slotsIn_mem.2 ⟨hi, hc, hst⟩) (by rw [this]; simp)
      | some x =>
        exact hall x ((withoutSlot_mem (by decide)).2
          ⟨fun hx => hn hst (hh.trans (congrArg some hx)), stagedHead_mem hh⟩)
    rw [if_pos hst, if_neg hnot, if_neg (hn hst), handing_evaluateHold,
      withoutSlot_evaluateHold h1 hi hc]
  · rw [if_neg hst, handing_evaluateHold, withoutSlot_evaluateHold h1 hi hc]

/-- RETIRE of the staged head in front of a tail. -/
theorem retireSlot_head (hs : Settled s) (hh : s.stagedHead c = some i) (hj : j ≠ i)
    (hm : ∀ x, x ∈ s.slotsIn c .staged ↔ x = i ∨ x = j) :
    s.retireSlot c i = State.evaluateHold
      (((s.withoutSlot i).handing [s.retiredEvent c i] false).headPromoted c) c ∧
      ∀ k, k ∈ (s.withoutSlot i).slotsIn c .staged ↔ k = j := by
  obtain ⟨hi, -, hst⟩ := slotsIn_mem.1 (stagedHead_mem hh)
  have hmem : ∀ k, k ∈ (s.withoutSlot i).slotsIn c .staged ↔ k = j := fun k => by
    rw [withoutSlot_mem (by decide), hm]
    exact ⟨fun x => x.2.resolve_left x.1, fun x => ⟨x ▸ hj, .inr x⟩⟩
  have hnot : ¬((s.withoutSlot i).slotsIn c .staged).isEmpty = true := by
    rw [List.isEmpty_iff, List.eq_nil_iff_forall_not_mem]
    exact fun hall => hall j ((hmem j).mpr rfl)
  refine ⟨?_, hmem⟩
  rw [retireSlot_eq hs hi]
  dsimp only
  rw [if_pos hst, if_neg hnot, if_pos hh]

theorem withoutSlot_triggers (hj : j ≠ i) : Triggers (s.withoutSlot i) j ↔ Triggers s j := by
  rw [Triggers, Triggers, withoutSlot_slot, if_neg hj]

theorem withoutSlot_exhausted (hst : (s.slot i).state ≠ .active) (c : Ctx) :
    (s.withoutSlot i).exhausted c = s.exhausted c := by
  unfold State.exhausted
  rw [withoutSlot_activeSlot hst]
  cases ha : s.activeSlot c with
  | none => rfl
  | some a =>
    have hne : a ≠ i := by
      rintro rfl
      exact hst (activeSlot_mem ha).2.2
    dsimp only
    rw [withoutSlot_slot, if_neg hne]

/-- RETIRE of the only staged slot. -/
theorem retireSlot_last (hs : Settled s) (hm : s.slotsIn c .staged = [i]) :
    s.retireSlot c i = State.evaluateHold
      (((s.withoutSlot i).handing [s.retiredEvent c i] false).evaluateRenewalDue c) c ∧
      (s.withoutSlot i).slotsIn c .staged = [] := by
  obtain ⟨hi, -, hst⟩ := slotsIn_mem.1 (show i ∈ s.slotsIn c .staged by rw [hm]; simp)
  have hnil : (s.withoutSlot i).slotsIn c .staged = [] := by
    rw [List.eq_nil_iff_forall_not_mem]
    intro k hk
    obtain ⟨hne, hmem⟩ := (withoutSlot_mem (by decide)).1 hk
    rw [hm] at hmem
    exact hne (List.mem_singleton.mp hmem)
  refine ⟨?_, hnil⟩
  rw [retireSlot_eq hs hi]
  dsimp only
  rw [if_pos hst, if_pos (by rw [hnil]; rfl)]

end RetireSlot

/-- The slot that RETIRE finds. -/
theorem retirable_some {s : State} {c : Ctx} {g : Nat} {i : SlotId}
    (h : s.retirable c g = some i) :
    i ≠ 0 ∧ (s.slot i).context = c ∧ (s.slot i).generation = g := by
  have hp := List.find?_some h
  have hu : ∀ j : SlotId, j ∈ usableSlots → j ≠ 0 := by decide
  simp only [Bool.and_eq_true, decide_eq_true_eq] at hp
  exact ⟨hu i (List.mem_of_find?_eq_some h), hp.1.1, hp.1.2⟩

/-- A RETIRE that finds its slot, by what its effect gives. -/
theorem endsCommand_retire {s : State} {words : List Nat} {rest : List Flight} {c : Ctx}
    {i : SlotId} {K : KeyTable} {events : List FaultEvent} (hs : Quiet s)
    (h : ArgumentsRead s 10 words rest) (hc : argument words 1 = c.val)
    (hg : 1 ≤ argument words 2 ∧ argument words 2 ≤ 65535)
    (hr : s.retirable c (argument words 2) = some i)
    (hx : ∃ x, (s.argued words rest).retireSlot c i =
      State.handing { s.argued words rest with keys := K }
        ((s.argued words rest).retiredEvent c i :: events) x) :
    EndsCommand s .retire { s.ended words rest .done 0 with keys := K } [] .done 0
      (keyEvent .keyRetired c (argument words 2) 0 0 :: events) := by
  obtain ⟨x, hx⟩ := hx
  refine endsCommand_of h rfl ⟨x, ?_⟩ hs.1 rfl rfl
  have hr' : (s.argued words rest).retirable c (argument words 2) = some i := hr
  unfold answerRetire
  rw [hc, index?_val]
  dsimp only
  rw [if_neg (by omega), hr']
  dsimp only
  rw [hx, State.retiredEvent, (show ((s.argued words rest).slot i).generation = argument words 2
    from (retirable_some hr).2.2)]
  rfl

section Commands

variable {s : State} {c : Ctx} {i j a : SlotId} {changes : List (Ctx × SlotId)}

theorem cascades_sameKeys {u : State} (h : SameKeys s u) (hc : Cascades s c changes) :
    Cascades u c changes := by
  have hslot : ∀ k, u.slot k = s.slot k := fun k => slot_congr h.1 k
  refine cascades_congr (fun k => ?_) (congrArg KeyTable.grouping h.1) (fun k _ _ => ?_) hc
  · rw [hslot]
    exact ⟨⟨rfl, rfl⟩, rfl, rfl⟩
  · rw [hslot]

/-- RETIRE of the staged head whose tail stays staged. -/
theorem retireSlot_waits (hs : Settled s) (h1 : OneEach s) (hh : s.stagedHead c = some i)
    (hj : j ≠ i) (hm : ∀ x, x ∈ s.slotsIn c .staged ↔ x = i ∨ x = j) (ht : ¬Triggers s j)
    (hex : s.exhausted c = false) :
    s.retireSlot c i = (s.leftSlot c i).handing [s.retiredEvent c i] false := by
  obtain ⟨hi, hctx, hst⟩ := slotsIn_mem.1 (stagedHead_mem hh)
  obtain ⟨h, hmem⟩ := retireSlot_head hs hh hj hm
  have hwaits := headPromoted_waits (s := (s.withoutSlot i).handing [s.retiredEvent c i] false)
    hmem (fun x => ht ((withoutSlot_triggers hj).mp x))
    ((withoutSlot_exhausted (by rw [hst]; decide) c).trans hex)
  rw [h, hwaits, handing_evaluateHold, withoutSlot_evaluateHold h1 hi hctx]

/-- RETIRE of the staged head whose tail is promoted and changes over. -/
theorem retireSlot_promotes (hs : Settled s) (h1 : OneEach s) (hh : s.stagedHead c = some i)
    (hj : j ≠ i) (hm : ∀ x, x ∈ s.slotsIn c .staged ↔ x = i ∨ x = j)
    (hcall : Triggers s j ∨ s.exhausted c = true) (hc : Cascades (s.withoutSlot i) c changes) :
    s.retireSlot c i = ((s.withoutSlot i).changedAll changes).handing
      (s.retiredEvent c i :: (s.withoutSlot i).changedAllEvents changes)
      (false || !changes.isEmpty) := by
  obtain ⟨hi, -, hst⟩ := slotsIn_mem.1 (stagedHead_mem hh)
  obtain ⟨h, hmem⟩ := retireSlot_head hs hh hj hm
  have h1' := withoutSlot_one h1 hi
  have hcall' : Triggers (s.withoutSlot i) j ∨ (s.withoutSlot i).exhausted c = true :=
    hcall.imp (withoutSlot_triggers hj).mpr
      (withoutSlot_exhausted (by rw [hst]; decide) c).trans
  have hmade := (headPromoted_made (s := (s.withoutSlot i).handing [s.retiredEvent c i] false)
    h1' hmem hcall' (cascades_sameKeys ⟨rfl, rfl⟩ hc)).1
  rw [h, hmade, changesMade_handing, handing_evaluateHold,
    evaluateHold_settled (headPromoted_made h1' hmem hcall' hc).2]
  rfl

/-- RETIRE of the only staged slot, where renewal is due at once. -/
theorem retireSlot_due (hs : Settled s) (h1 : OneEach s) (hm : s.slotsIn c .staged = [i])
    (ha : s.activeSlot c = some a) (hr : (s.slot a).renewalDueRaised = false)
    (hd : (s.slot a).budget - (s.slot a).usage ≤ (s.context c).settings.reserveParcels ∨
      (s.slot a).renewalDueLatch = true) :
    s.retireSlot c i =
      State.handing { s.leftSlot c i with keys := { (s.leftSlot c i).keys with
          slots := (s.leftSlot c i).keys.slots.set a { s.slot a with renewalDueRaised := true } } }
        [s.retiredEvent c i, keyEvent .renewalDue c (s.slot a).generation
          ((s.slot a).budget - (s.slot a).usage) (s.remainingTicks (s.slot a))] false := by
  obtain ⟨hi, hctx, hst⟩ := slotsIn_mem.1 (show i ∈ s.slotsIn c .staged by rw [hm]; simp)
  obtain ⟨h, hnil⟩ := retireSlot_last hs hm
  obtain ⟨ha0, -, hactive⟩ := activeSlot_mem ha
  have hne : a ≠ i := by
    rintro rfl
    rw [hst] at hactive
    cases hactive
  have hslot : (s.withoutSlot i).slot a = s.slot a := by rw [withoutSlot_slot, if_neg hne]
  have hactive' : (s.withoutSlot i).activeSlot c = some a :=
    (withoutSlot_activeSlot (by rw [hst]; decide) c).trans ha
  have hdue : (s.withoutSlot i).renewalIsDue c a = true := by
    rw [State.renewalIsDue, hslot, hnil]
    have hreserve : (s.withoutSlot i).context c = s.context c := rfl
    simpa [hr, hactive, hreserve, KeySlot.remaining] using hd
  have hcontext : ∀ f, ((s.withoutSlot i).updateContext c f).slot a = s.slot a := fun _ => hslot
  have hhanding : ((s.withoutSlot i).handing [s.retiredEvent c i] false).slot a = s.slot a := hslot
  have hevaluate := evaluateRenewalDue_active
    (s := (s.withoutSlot i).handing [s.retiredEvent c i] false) hactive'
  have heldBy : ((s.withoutSlot i).updateSlot a fun k => { k with renewalDueRaised := true }).heldBy c =
      (s.withoutSlot i).heldBy c := by
    unfold State.heldBy
    rw [activeSlot_congr c (updateSlot_service ⟨rfl, rfl⟩), hactive']
    dsimp only
    rw [slot_updateSlot_same ha0, updateSlot_eq ha0]
    rfl
  have hraise : ∀ (t : State) (e : FaultEvent) (x : Bool),
      ((t.handing [s.retiredEvent c i] x).updateSlot a fun k => { k with renewalDueRaised := true }).raise e
        = (t.updateSlot a fun k => { k with renewalDueRaised := true }).handing
          [s.retiredEvent c i, e] x := fun t e x => by
    rw [handing_updateSlot, handing_raise]
    rfl
  rw [h, hevaluate, if_pos (by exact hdue), hraise, handing_evaluateHold, evaluateHold_eq, heldBy,
    withoutSlot_heldBy h1 hi hctx, ← updateSlot_updateContext, updateSlot_eq ha0,
    hcontext, hhanding]
  rfl

/-- RETIRE of the only staged slot, where renewal is not due. -/
theorem retireSlot_notDue (hs : Settled s) (h1 : OneEach s) (hm : s.slotsIn c .staged = [i])
    (hd : ∀ a ∈ s.activeSlot c, (s.slot a).renewalDueRaised = true ∨
      (s.context c).settings.reserveParcels < (s.slot a).budget - (s.slot a).usage ∧
        (s.slot a).renewalDueLatch = false) :
    s.retireSlot c i = (s.leftSlot c i).handing [s.retiredEvent c i] false := by
  obtain ⟨hi, hctx, hst⟩ := slotsIn_mem.1 (show i ∈ s.slotsIn c .staged by rw [hm]; simp)
  obtain ⟨h, -⟩ := retireSlot_last hs hm
  have hkeeps : ((s.withoutSlot i).handing [s.retiredEvent c i] false).evaluateRenewalDue c =
      (s.withoutSlot i).handing [s.retiredEvent c i] false := by
    have hactive := withoutSlot_activeSlot (s := s) (i := i) (by rw [hst]; decide) c
    cases ha : s.activeSlot c with
    | none => exact evaluateRenewalDue_none (by exact hactive.trans ha)
    | some a =>
      have hne : a ≠ i := by
        rintro rfl
        have hactive := (activeSlot_mem ha).2.2
        rw [hst] at hactive
        cases hactive
      have hslot : ((s.withoutSlot i).handing [s.retiredEvent c i] false).slot a = s.slot a :=
        (withoutSlot_slot s i a).trans (if_neg hne)
      have hreserve : ((s.withoutSlot i).handing [s.retiredEvent c i] false).context c =
        s.context c := rfl
      rw [evaluateRenewalDue_active (by exact hactive.trans ha), if_neg]
      rw [State.renewalIsDue, hslot, hreserve]
      rcases hd a ha with hr | ⟨hb, hl⟩
      · simp [hr]
      · simp [hl, KeySlot.remaining, Nat.not_le.mpr hb]
  rw [h, hkeeps, handing_evaluateHold, withoutSlot_evaluateHold h1 hi hctx]

end Commands

/-- Settles O50. -/
theorem keyCommands : Obligations.KeyCommands := by
  intro s words rest c i changes hs h1 hc held gone left ends
  have hs' : Settled (s.argued words rest) := hs.2
  have h1' : OneEach (s.argued words rest) := h1
  refine ⟨fun h hh hcas => ?activate, fun h hg hg' hr => ?retire⟩
  case activate =>
    have hanswer : answerActivateNow words (s.argued words rest) =
        .done ((s.argued words rest).changeover c) (s.slot i).generation := by
      have hh' : (s.argued words rest).stagedHead c = some i := hh
      unfold answerActivateNow
      rw [hc, index?_val]
      dsimp only
      rw [hh']
      rfl
    have hsame : SameKeys s (s.argued words rest) := ⟨rfl, rfl⟩
    obtain ⟨hall, hevents⟩ := changedAll_sameKeys changes hsame
    refine endsCommand_of h rfl ⟨false || !changes.isEmpty, hanswer.trans ?_⟩ hs.1 rfl rfl
    rw [argued_handing hs.2, changeover_handing h1' (cascades_sameKeys hsame hcas), hall, hevents]
    rfl
  case retire =>
    have hend := fun K events => endsCommand_retire (K := K) (events := events) hs h hc ⟨hg, hg'⟩ hr
    obtain ⟨hi, hctx, -⟩ := retirable_some hr
    refine ⟨fun hn => ?_, fun j hh hj hm => ⟨fun ht hex => ?_, fun hcall hcas => ?_⟩,
      fun hm => ⟨fun a ha hraised hdue => ?_, fun hnot => ?_⟩⟩
    · exact hend left.keys [] ⟨false, retireSlot_left hs' h1' hi hctx hn⟩
    · exact hend left.keys [] ⟨false, retireSlot_waits hs' h1' hh hj hm ht hex⟩
    · have hsame : SameKeys gone ((s.argued words rest).withoutSlot i) := ⟨rfl, rfl⟩
      obtain ⟨hall, hevents⟩ := changedAll_sameKeys changes hsame
      have hmade := retireSlot_promotes hs' h1' hh hj hm hcall (cascades_sameKeys hsame hcas)
      rw [hall, hevents] at hmade
      exact hend _ _ ⟨_, hmade⟩
    · have hmade := retireSlot_due hs' h1' hm ha hraised hdue
      exact hend _ _ ⟨_, hmade⟩
    · exact hend left.keys [] ⟨false, retireSlot_notDue hs' h1' hm hnot⟩

end Sys2Proof.Machine
end

section
/-! PROOFS. The end of a check: its tag, the acceptance table, and the changeover on a first
peer use (R69 to R71, R164). -/

namespace Sys2Proof.Machine

/-! ### A changeover does not read the acceptance record -/

section Acceptance

variable {s t : State}

/-- Two slots equal but for their acceptance records. -/
def KeySlot.Accepts (k k' : KeySlot) : Prop :=
  ∃ high admitted, k' = { k with highMark := high, admitted := admitted }

/-- Two states whose key tables and ticks a changeover reads alike. -/
def SameAcceptance (s t : State) : Prop :=
  (∀ i, (s.slot i).Accepts (t.slot i)) ∧ (∀ c, t.context c = s.context c) ∧
    t.time.tick = s.time.tick

theorem accepts_alike {k k' : KeySlot} (h : k.Accepts k') : k.Alike k' := by
  obtain ⟨x, y, rfl⟩ := h
  exact ⟨⟨rfl, rfl⟩, rfl, rfl⟩

theorem sameAcceptance_dueAtActivation (h : SameAcceptance s t) (c : Ctx) (i : SlotId) :
    t.dueAtActivation c i = s.dueAtActivation c i := by
  obtain ⟨hslots, hcontexts, htick⟩ := h
  have hstaged := slotsIn_congr (s := s) (t := t) c .staged fun j => (accepts_alike (hslots j)).1
  obtain ⟨x, y, hi⟩ := hslots i
  unfold State.dueAtActivation
  rw [hstaged, hi, hcontexts, htick]

theorem sameAcceptance_changedSlot (h : SameAcceptance s t) (c : Ctx) (i j : SlotId) :
    (s.changedSlot c i j).Accepts (t.changedSlot c i j) := by
  have hdue := sameAcceptance_dueAtActivation h c i
  obtain ⟨hslots, hcontexts, htick⟩ := h
  have hactive := activeSlot_congr (s := s) (t := t) c fun k => (accepts_alike (hslots k)).1
  have hdraining : t.drainingSlot c = s.drainingSlot c :=
    congrArg List.head? (slotsIn_congr c .draining fun k => (accepts_alike (hslots k)).1)
  obtain ⟨x, y, hj⟩ := hslots j
  unfold State.changedSlot
  rw [hactive, hdraining, hdue, hj, hcontexts, htick]
  dsimp only
  by_cases hji : j = i
  · rw [if_pos hji, if_pos hji]
    exact ⟨x, y, rfl⟩
  rw [if_neg hji, if_neg hji]
  by_cases ha : s.activeSlot c = some j
  · rw [if_pos ha, if_pos ha]
    exact ⟨x, y, rfl⟩
  rw [if_neg ha, if_neg ha]
  by_cases hd : s.drainingSlot c = some j
  · rw [if_pos hd, if_pos hd]
    by_cases hr : (s.slot j).references = 0
    · rw [if_pos hr, if_pos hr]
      exact ⟨_, _, rfl⟩
    · rw [if_neg hr, if_neg hr]
      exact ⟨x, y, rfl⟩
  · rw [if_neg hd, if_neg hd]
    exact ⟨x, y, rfl⟩

theorem sameAcceptance_changedOver (h : SameAcceptance s t) (c : Ctx) (i : SlotId) :
    SameAcceptance (s.changedOver c i) (t.changedOver c i) := by
  refine ⟨fun j => ?_, fun d => ?_, h.2.2⟩
  · rw [changedOver_slot, changedOver_slot]
    exact sameAcceptance_changedSlot h c i j
  · obtain ⟨x, y, hi⟩ := h.1 i
    have hcontext : ∀ u : State, (u.changedOver c i).context d =
        if d = c then { u.context c with
          holdLine := (u.context c).levelAt ((u.slot i).budget - (u.slot i).usage) }
        else u.context d := fun u => by
      by_cases hd : d = c
      · rw [if_pos hd, hd]
        exact Vector.getElem_set_self _
      · rw [if_neg hd]
        exact Vector.getElem_set_ne c.isLt d.isLt fun x => hd (Fin.ext x).symm
    rw [hcontext, hcontext, h.2.1, h.2.1, hi]

theorem sameAcceptance_events (h : SameAcceptance s t) (c : Ctx) (i : SlotId) :
    t.changeoverEvents c i = s.changeoverEvents c i := by
  have hdue := sameAcceptance_dueAtActivation h c i
  obtain ⟨hslots, -, htick⟩ := h
  have hactive := activeSlot_congr (s := s) (t := t) c fun k => (accepts_alike (hslots k)).1
  obtain ⟨x, y, hi⟩ := hslots i
  unfold State.changeoverEvents
  rw [hactive, hdue, hi, htick]
  cases s.activeSlot c with
  | none => rfl
  | some a =>
    obtain ⟨x, y, ha⟩ := hslots a
    dsimp only
    rw [ha]

/-- Changeovers tell the same events whatever has been accepted. -/
theorem changedAllEvents_sameAcceptance : ∀ (l : List (Ctx × SlotId)) {s t : State},
    SameAcceptance s t → t.changedAllEvents l = s.changedAllEvents l
  | [], _, _, _ => rfl
  | m :: l, _, _, h => by
    rw [State.changedAllEvents, State.changedAllEvents, sameAcceptance_events h,
      changedAllEvents_sameAcceptance l (sameAcceptance_changedOver h m.1 m.2)]

end Acceptance

/-! ### The link-silence watch at an admission (R164) -/

section Link

/-- A link-silence watch once an inbound parcel has been admitted. -/
def Watch.admitted (w : Watch) (now : Tick) : Watch :=
  if w.period = 0 then w else
    { period := w.period, silent := false,
      mark := { value := some (ahead now w.period), latch := false } }

/-- The events of an admission for the link-silence watch of context c. -/
def Watch.resumedEvents (w : Watch) (c : Ctx) : List FaultEvent :=
  if w.period ≠ 0 ∧ w.silent = true then
    [{ kind := .linkResumed, context := some c.val, window := none, parcel := none,
       generation := none, detailA := 0, detailB := 0 }] else []

theorem handing_linkAdmission (s : State) (c : Ctx) : ∃ x,
    (s.handing [] false).linkAdmission c =
      (s.setLink c ((s.link c).admitted s.time.tick)).handing ((s.link c).resumedEvents c) x := by
  unfold State.linkAdmission Watch.admitted Watch.resumedEvents
  have hlink : (s.handing [] false).link c = s.link c := rfl
  rw [hlink]
  by_cases hp : (s.link c).period = 0
  · have hset : s.setLink c (s.link c) = s := by simp [State.setLink, State.link]
    rw [if_pos hp, if_pos hp, if_neg fun h => h.1 hp, hset]
    exact ⟨false, rfl⟩
  rw [if_neg hp, if_neg hp]
  by_cases hw : (s.link c).silent = true
  · rw [if_pos hw, if_pos ⟨hp, hw⟩]
    exact ⟨true, rfl⟩
  · rw [if_neg hw, if_neg fun h => hw h.2]
    exact ⟨false, rfl⟩

end Link

/-! ### An admission (R70, R71) -/

section Admission

variable {s : State} {j : Job} {e : Window} {q : ParcelRecord} {i : SlotId} {high : Nat}
  {admitted : List Nat} {run : Option Running}

/-- s once the parcel of job j is ADMITTED and slot i's acceptance record updated. -/
def State.accepted (s : State) (j : Job) (q : ParcelRecord) (i : SlotId) (high : Nat)
    (admitted : List Nat) : State :=
  { s.withParcel j.window j.parcel { q with state := .admitted } with
    keys := { s.keys with
      slots := s.keys.slots.set i { s.slot i with highMark := high, admitted := admitted } } }

/-- s once the parcel of job j has been admitted under slot i, the link-silence watch of
its context c told. -/
def State.admits (s : State) (j : Job) (c : Ctx) (q : ParcelRecord) (i : SlotId) (high : Nat)
    (admitted : List Nat) : State :=
  { s.accepted j q i high admitted with
    time := { s.time with links := s.time.links.set c ((s.link c).admitted s.time.tick) } }

theorem admits_slot (k : SlotId) : (s.slot k).Accepts ((s.admits j e.context q i high admitted).slot k) := by
  by_cases hk : k = i
  · rw [hk]
    exact ⟨high, admitted, Vector.getElem_set_self _⟩
  · exact ⟨(s.slot k).highMark, (s.slot k).admitted,
      Vector.getElem_set_ne i.isLt k.isLt fun x => hk (Fin.ext x).symm⟩

theorem admits_sameAcceptance (s : State) (j : Job) (e : Window) (q : ParcelRecord) (i : SlotId)
    (high : Nat) (admitted : List Nat) :
    SameAcceptance s (s.admits j e.context q i high admitted) :=
  ⟨fun _ => admits_slot _, fun _ => rfl, rfl⟩

/-- What an admission does before the tag engine goes on. -/
theorem takeIn_eq (hs : Settled s) (hi : i ≠ 0) (hq : s.parcel j.window j.parcel = some q) :
    ∃ x, s.takeIn j e i high admitted =
      State.endJob
        (if (s.slot i).state = .staged ∧ (s.slot i).mode = .onPeerUse ∧
            s.stagedHead (s.slot i).context = some i then
          ((s.admits j e.context q i high admitted).handing
            ((s.link e.context).resumedEvents e.context) x).changeover (s.slot i).context
        else (s.admits j e.context q i high admitted).handing
          ((s.link e.context).resumedEvents e.context) x) := by
  set a := s.admits j e.context q i high admitted with ha
  set told := (s.link e.context).resumedEvents e.context
  have hslots := (admits_sameAcceptance s j e q i high admitted).1
  have hparcel : (s.updateSlot i fun k => { k with highMark := high, admitted := admitted }).parcel
      j.window j.parcel = some q := by
    rw [updateSlot_eq hi]
    exact hq
  have hbefore : (s.updateSlot i fun k =>
        { k with highMark := high, admitted := admitted }).updateParcel j.window j.parcel
        (fun r => { r with state := .admitted }) =
      (s.accepted j q i high admitted).handing [] false := by
    rw [updateParcel_const hparcel, updateSlot_eq hi, State.withParcel, updateParcel_withKeys]
    exact settled_handing (s := s.accepted j q i high admitted) (by exact hs)
  obtain ⟨x, hx⟩ := handing_linkAdmission (s.accepted j q i high admitted) e.context
  refine ⟨x, ?_⟩
  have hlinked : State.linkAdmission _ e.context = a.handing told x := hx
  obtain ⟨⟨hstate, hcontext⟩, -, hmode⟩ := accepts_alike (hslots i)
  have hhead := stagedHead_alike (fun k => accepts_alike (hslots k)) (s.slot i).context
  rw [← ha] at hstate hcontext hmode hhead
  rw [State.takeIn]
  rw [hbefore, hlinked]
  change State.endJob (if (a.slot i).state = .staged ∧ (a.slot i).mode = .onPeerUse ∧
    a.stagedHead (a.slot i).context = some i then _ else _) = _
  rw [hstate, hmode, hcontext, hhead]
  refine congrArg State.endJob (if_congr Iff.rfl ?_ rfl)
  change (a.handing told x).changeover (a.slot i).context = _
  rw [hcontext]

/-- The job ends in a state that hands events on. -/
theorem endJob_handing {u : State} {events : List FaultEvent} {x : Bool}
    (ht : u.tag = { queue := [], running := run, deferred := [], waitingSeal := none }) :
    (u.handing events x).endJob = u.withoutJob.handing events x :=
  endJob_alone (s := u.handing events x) ht

theorem admits_withoutJob :
    (s.admits j e.context q i high admitted).withoutJob =
      { s.withoutJob.withParcel j.window j.parcel { q with state := .admitted } with
        keys := { s.keys with
          slots := s.keys.slots.set i { s.slot i with highMark := high, admitted := admitted } },
        time := { s.time with
          links := s.time.links.set e.context ((s.link e.context).admitted s.time.tick) } } := by
  rw [← withParcel_withoutJob]
  rfl

/-- An admission that changes nothing over. -/
theorem takeIn_quiet (hs : Settled s) (hi : i ≠ 0) (hq : s.parcel j.window j.parcel = some q)
    (ht : s.tag = { queue := [], running := run, deferred := [], waitingSeal := none })
    (hc : (s.slot i).state ≠ .staged ∨ (s.slot i).mode ≠ .onPeerUse ∨
      s.stagedHead (s.slot i).context ≠ some i) :
    ∃ x, s.takeIn j e i high admitted =
      (s.admits j e.context q i high admitted).withoutJob.handing
        ((s.link e.context).resumedEvents e.context) x := by
  obtain ⟨x, hx⟩ := takeIn_eq (e := e) (high := high) (admitted := admitted) hs hi hq
  rw [hx, if_neg fun h => hc.elim (· h.1) (·.elim (· h.2.1) (· h.2.2)), endJob_handing (run := run) (by exact ht)]
  exact ⟨x, rfl⟩

theorem changedAll_tag : ∀ (l : List (Ctx × SlotId)) (s : State), (s.changedAll l).tag = s.tag
  | [], _ => rfl
  | m :: l, s => changedAll_tag l (s.changedOver m.1 m.2)

theorem changedAll_withoutJob (s : State) (l : List (Ctx × SlotId)) :
    (s.changedAll l).withoutJob = s.withoutJob.changedAll l := by
  have hkeys := (changedAll_sameKeys l (s := s) (u := s) ⟨rfl, rfl⟩).1
  rw [(changedAll_sameKeys l (s := s) (u := s.withoutJob) ⟨rfl, rfl⟩).1]
  generalize s.changedAll l = t at hkeys ⊢
  rw [hkeys]
  rfl

/-- An admission that is a first peer use of the staged head (R71). -/
theorem takeIn_changes {changes : List (Ctx × SlotId)} (hs : Settled s) (hi : i ≠ 0)
    (hq : s.parcel j.window j.parcel = some q)
    (ht : s.tag = { queue := [], running := run, deferred := [], waitingSeal := none })
    (hstaged : (s.slot i).state = .staged) (hmode : (s.slot i).mode = .onPeerUse)
    (h1 : OneEach s) (hh : s.stagedHead (s.slot i).context = some i)
    (hc : Cascades s (s.slot i).context changes) :
    ∃ x, s.takeIn j e i high admitted =
      ((s.admits j e.context q i high admitted).withoutJob.changedAll changes).handing
        ((s.link e.context).resumedEvents e.context ++ s.changedAllEvents changes) x := by
  have hsame := admits_sameAcceptance s j e q i high admitted
  have halike : ∀ k, (s.slot k).Alike ((s.admits j e.context q i high admitted).slot k) :=
    fun k => accepts_alike (hsame.1 k)
  have hlatch : ∀ k, ((s.admits j e.context q i high admitted).slot k).activationLatch =
      (s.slot k).activationLatch := fun k => by
    obtain ⟨x, y, hk⟩ := hsame.1 k
    rw [hk]
  have hcascades := cascades_congr halike rfl (fun k _ _ => hlatch k) hc
  obtain ⟨x, hx⟩ := takeIn_eq (e := e) (high := high) (admitted := admitted) hs hi hq
  rw [hx, if_pos ⟨hstaged, hmode, hh⟩, changeover_handing (oneEach_alike h1 halike) hcascades,
    endJob_handing (run := run) (by rw [changedAll_tag]; exact ht), changedAll_withoutJob,
    changedAllEvents_sameAcceptance changes hsame]
  exact ⟨_, rfl⟩

end Admission

/-! ### The end of a check (R69) -/

section Check

variable {s : State} {data : List Byte} {run : Running} {e : Window} {q : ParcelRecord}
  {h : HeadLine} {i : SlotId}

theorem checkPayload_kept (hn : 2 ≤ run.linesLeft) :
    checkPayload data run e q s =
      s.setRunning (some { run with payload := run.payload ++ data,
                                    linesLeft := run.linesLeft - 1 }) :=
  if_neg (by omega)

theorem checkPayload_last (hn : run.linesLeft ≤ 1) (hh : run.head = some h) (hi : q.slot = some i) :
    checkPayload data run e q s = s.checkEnds run.job e h i (run.payload ++ data) := by
  refine (if_pos hn).trans ?_
  rw [hh, hi]

theorem acceptance_zero (high : Nat) (admitted : List Nat) : acceptance high admitted 0 = .stale :=
  if_pos rfl

theorem acceptance_ahead {high n : Nat} (admitted : List Nat) (h : high < n) :
    acceptance high admitted n =
      .takeIn n (n :: admitted.filter fun x => decide (n - 31 ≤ x)) := by
  have hfilter : (fun x => decide (n ≤ x + 31)) = fun x => decide (n - 31 ≤ x) :=
    funext fun x => decide_eq_decide.mpr (by omega)
  rw [acceptance, if_neg (by omega), if_pos h, hfilter]

theorem acceptance_behind {high n : Nat} {admitted : List Nat} (h1 : 1 ≤ n) (h : n ≤ high) :
    acceptance high admitted n =
      if n ∈ admitted then .replayed else if n < high - 31 then .stale
      else .takeIn high (n :: admitted) := by
  have hiff : n + 31 < high ↔ n < high - 31 := by omega
  rw [acceptance, if_neg (by omega), if_neg (by omega), if_congr Iff.rfl rfl (if_congr hiff rfl rfl)]

end Check

/-- Settles O57. -/
theorem payloadIsChecked : Obligations.PayloadIsChecked := by
  intro s r rest run e q h i hs hold hrun hp hhead hslot hi j k high n data b tag ends link watched
    resumed admits
  obtain ⟨htag, he, hq⟩ := landed_jobRuns s r rest false hrun
  have hbm : b.mode = .running := (landed_mode ..).trans hs.1
  have hbs : Settled b := by simpa [Settled, b] using hs.2
  have hkeys : b.keys = s.keys := landed_keys ..
  have htime : b.time = s.time := landed_time ..
  have hbk : b.slot i = k := landed_slot ..
  have hlink : b.link e.context = link := by rw [State.link, htime]; rfl
  have hres : ∀ failed passed, b.jobResult false failed passed = passed run e q b :=
    fun failed passed => jobResult_passed (by rw [htag]) he hq hp
  refine ⟨fun hn => ?kept, fun hn => ?last⟩
  case kept =>
    refine goesTo_completion hold (d := only .checkPayload) rfl rfl hbm ⟨false, ?_⟩
    rw [hres, checkPayload_kept hn]
    refine (settled_handing (by exact hbs)).trans ?_
    rw [State.setRunning, landed_tag]
  case last =>
    have hchecked : ∀ failed, b.jobResult false failed (checkPayload (s.returned r.address r.access)) =
        b.checkEnds j e h i data := fun failed => by
      rw [hres, checkPayload_last hn hhead hslot]
    have hrejected : ∀ kind detail, b.checkEnds j e h i data = b.rejectWith j
        (parcelEvent kind j (some e.context.val) (some k.generation) n detail) → ends kind detail :=
      fun kind detail hends => by
        refine goesTo_completion hold (d := only .checkPayload) rfl rfl hbm ⟨false, ?_⟩
        rw [hchecked, hends, rejectWith_alone hbs htag hq]
    have hadmitted : ∀ high' admitted,
        b.checkEnds j e h i data = b.takeIn j e i high' admitted → admits high' admitted := by
      intro high' admitted hends
      dsimp -zeta only [admits]
      intro a
      have ha : (b.admits j e.context q i high' admitted).withoutJob = a := by
        rw [admits_withoutJob, hlink, hkeys, htime, hbk]
        rfl
      have hres : (b.link e.context).resumedEvents e.context = resumed := by
        rw [hlink]
        rfl
      refine ⟨fun hquiet => ?quiet, fun changes hstaged hmode h1 hh hc => ?changes⟩
      case quiet =>
        obtain ⟨x, hx⟩ := takeIn_quiet (e := e) (high := high') (admitted := admitted) hbs hi hq htag
          (by rw [hbk, stagedHead_keys hkeys]; exact hquiet)
        refine goesTo_completion hold (d := only .checkPayload) rfl rfl hbm ⟨x, ?_⟩
        rw [hchecked, hends, hx, ha, hres]
      case changes =>
        have hsame : SameKeys s b := ⟨hkeys, by rw [htime]⟩
        obtain ⟨x, hx⟩ := takeIn_changes (e := e) (high := high') (admitted := admitted) hbs hi hq htag
          (by rw [hbk]; exact hstaged) (by rw [hbk]; exact hmode)
          (oneEach_service h1 fun i => by rw [landed_slot]; exact ⟨rfl, rfl⟩)
          (by rw [hbk, stagedHead_keys hkeys]; exact hh)
          (by rw [hbk]; exact cascades_sameKeys hsame hc)
        refine goesTo_completion hold (d := only .checkPayload) rfl rfl
          ((changedAll_mode changes a).trans hbm) ⟨x, ?_⟩
        rw [hchecked, hends, hx, ha, hres, (changedAll_sameKeys changes hsame).2]
    have hdiffers : tag ≠ h.tag → b.checkEnds j e h i data = b.rejectWith j
        (parcelEvent .tagMismatch j (some e.context.val) (some k.generation) n 0) := fun hne => by
      rw [State.checkEnds, checkTag_tagBy, hbk]
      exact if_pos hne
    have hagrees : tag = h.tag → b.checkEnds j e h i data =
        match acceptance high k.admitted n with
        | .replayed => b.rejectWith j
            (parcelEvent .replayed j (some e.context.val) (some k.generation) n 0)
        | .stale => b.rejectWith j
            (parcelEvent .stale j (some e.context.val) (some k.generation) n high)
        | .takeIn high' admitted => b.takeIn j e i high' admitted := fun heq => by
      rw [State.checkEnds, checkTag_tagBy, hbk]
      exact (if_neg (not_not.mpr heq)).trans rfl
    refine ⟨fun hne => hrejected .tagMismatch 0 (hdiffers hne), fun heq =>
      ⟨fun h0 => ?zero, fun h1 => ?ahead, fun h1 h2 h3 h4 => ?within, fun h1 h2 h3 => ?seen,
        fun h1 h2 h3 => ?behind⟩⟩
    case zero =>
      refine hrejected .stale high ((hagrees heq).trans ?_)
      rw [h0, acceptance_zero]
    case ahead =>
      refine hadmitted _ _ ((hagrees heq).trans ?_)
      rw [acceptance_ahead _ h1]
    case within =>
      refine hadmitted _ _ ((hagrees heq).trans ?_)
      rw [acceptance_behind h1 h3, if_neg h4, if_neg (by omega)]
    case seen =>
      refine hrejected .replayed 0 ((hagrees heq).trans ?_)
      rw [acceptance_behind h1 h2, if_pos h3]
    case behind =>
      refine hrejected .stale high ((hagrees heq).trans ?_)
      rw [acceptance_behind h1 (by omega), if_neg h3, if_pos h2]

end Sys2Proof.Machine
end

section
/-! PROOFS. The import of a renewal: its checks, the staging, and the changeover that
follows (R108 to R116). -/

namespace Sys2Proof.Machine

/-! ### The seven checks (R110) -/

section Checks

variable {s : State} {entry : ImportEntry} {m : RenewalRecord} {c : Ctx}

/-- The reason code of the first import check that fails. -/
def State.importReason (s : State) (entry : ImportEntry) (m : RenewalRecord) (c : Ctx) :
    Option Nat :=
  if m.context ≠ entry.context ∨ m.generation ≠ entry.generation then some 1
  else if 3 < m.mode then some 2
  else if m.generation ≤ (s.context c).floor then some 3
  else if m.budget = 0 then some 2
  else if checkValueOf (s.unwrapped m) ≠ m.checkValue then some 4
  else if 2 ≤ (s.slotsIn c .staged).length then some 5
  else if (usableSlots.all fun i => decide ((s.slot i).state ≠ .empty)) = true then some 6
  else none

theorem modeOf?_none {n : Nat} : modeOf? n = none ↔ 3 < n := by
  unfold modeOf?
  split <;> simp_all; omega

theorem emptySlot_none : s.emptySlot = none ↔
    (usableSlots.all fun i => decide ((s.slot i).state ≠ .empty)) = true := by
  unfold State.emptySlot
  simp

/-- What the checks give, by the first reason to refuse. -/
theorem importChecks_cases (hc : entry.context = c.val) :
    (∃ reason : RenewalReason, s.importChecks entry m = .inl reason ∧
      s.importReason entry m c = some reason.code) ∨
    ∃ mode i, s.importChecks entry m = .inr (c, mode, i) ∧ s.importReason entry m c = none ∧
      m.context = entry.context ∧ m.generation = entry.generation ∧
      modeOf? m.mode = some mode ∧ s.emptySlot = some i ∧ (s.slotsIn c .staged).length < 2 := by
  unfold State.importChecks State.importReason
  by_cases h1 : m.context ≠ entry.context ∨ m.generation ≠ entry.generation
  · rw [if_pos h1, if_pos h1]
    exact .inl ⟨_, rfl, rfl⟩
  obtain ⟨hcontext, hgeneration⟩ := not_or.mp h1
  rw [not_not] at hcontext hgeneration
  rw [if_neg h1, if_neg h1, hcontext, hc, index?_val]
  dsimp only
  by_cases h2 : 3 < m.mode
  · rw [modeOf?_none.mpr h2, if_pos h2]
    exact .inl ⟨_, rfl, rfl⟩
  rw [if_neg h2]
  cases hmode : modeOf? m.mode with
  | none => exact absurd (modeOf?_none.mp hmode) h2
  | some mode =>
    dsimp only
    by_cases h3 : m.generation ≤ (s.context c).floor
    · rw [if_pos h3, if_pos h3]
      exact .inl ⟨_, rfl, rfl⟩
    rw [if_neg h3, if_neg h3]
    by_cases h4 : m.budget = 0
    · rw [if_pos h4, if_pos h4]
      exact .inl ⟨_, rfl, rfl⟩
    rw [if_neg h4, if_neg h4]
    by_cases h5 : checkValueOf (s.unwrapped m) ≠ m.checkValue
    · rw [if_pos h5, if_pos h5]
      exact .inl ⟨_, rfl, rfl⟩
    rw [if_neg h5, if_neg h5]
    by_cases h6 : 2 ≤ (s.slotsIn c .staged).length
    · rw [if_pos h6, if_pos h6]
      exact .inl ⟨_, rfl, rfl⟩
    rw [if_neg h6, if_neg h6]
    cases hempty : s.emptySlot with
    | none =>
      rw [if_pos (emptySlot_none.mp hempty)]
      exact .inl ⟨_, rfl, rfl⟩
    | some i =>
      rw [if_neg fun h => by rw [emptySlot_none.mpr h] at hempty; cases hempty]
      exact .inr ⟨mode, i, rfl, rfl, rfl, hgeneration, rfl, rfl, by omega⟩

theorem importChecks_refused {x : Nat} (hc : entry.context = c.val)
    (h : s.importReason entry m c = some x) :
    ∃ reason : RenewalReason, s.importChecks entry m = .inl reason ∧ reason.code = x := by
  rcases importChecks_cases (s := s) (m := m) hc with ⟨reason, hr, hcode⟩ | ⟨_, _, -, hnone, -⟩
  · exact ⟨reason, hr, Option.some.inj (hcode.symm.trans h)⟩
  · rw [hnone] at h
    cases h

theorem usableSlots_lt : usableSlots.Pairwise (· < ·) := by decide

/-- The EMPTY slot found is the lowest. -/
theorem emptySlot_some {i : SlotId} (hi : i ≠ 0) (he : (s.slot i).state = .empty)
    (hl : ∀ x, x ≠ 0 → x < i → (s.slot x).state ≠ .empty) : s.emptySlot = some i := by
  unfold State.emptySlot
  obtain ⟨l, l', hsplit⟩ := List.append_of_mem (mem_usableSlots.mpr hi)
  have hsorted := usableSlots_lt
  rw [hsplit, List.pairwise_append] at hsorted
  rw [List.find?_eq_some_iff_append]
  refine ⟨by simpa using he, l, l', hsplit, fun x hx => ?_⟩
  have hx0 : x ≠ 0 := mem_usableSlots.mp (by rw [hsplit]; exact List.mem_append_left _ hx)
  simpa using hl x hx0 (hsorted.2.2 x hx i (by simp))

theorem importChecks_passed {mode : ActivationMode} {i : SlotId} (hc : entry.context = c.val)
    (h : s.importReason entry m c = none) (hm : modeOf? m.mode = some mode) (hi : i ≠ 0)
    (he : (s.slot i).state = .empty) (hl : ∀ x, x ≠ 0 → x < i → (s.slot x).state ≠ .empty) :
    s.importChecks entry m = .inr (c, mode, i) ∧ m.context = entry.context ∧
      m.generation = entry.generation ∧ (s.slotsIn c .staged).length < 2 := by
  rcases importChecks_cases (s := s) (m := m) hc with
    ⟨reason, -, hcode⟩ | ⟨mode', i', hr, -, hcontext, hgeneration, hmode, hempty, hlength⟩
  · rw [hcode] at h
    cases h
  · obtain rfl := Option.some.inj (hmode.symm.trans hm)
    obtain rfl := Option.some.inj (hempty.symm.trans (emptySlot_some hi he hl))
    exact ⟨hr, hcontext, hgeneration, hlength⟩

end Checks

/-! ### The end of an import (R105, R115) -/

section Ends

variable {s : State} {entry : ImportEntry} {e : Window} {q : ParcelRecord}

/-- s once the import of the only listed parcel has ended. -/
def State.importEnded (s : State) (entry : ImportEntry) : State :=
  { s.withParcel entry.window entry.parcel ParcelRecord.blank with
    renewal := { s.renewal with importing := none, importList := [] } }

theorem withoutParcel_noSlot {w : WindowIndex} {p : Nat} (h : q.slot = none) :
    s.withoutParcel w p q = s.withParcel w p ParcelRecord.blank := by
  rw [State.withoutParcel, h]
  rfl

/-- The end of an import in a state that hands events on. -/
theorem endImport_handing {events : List FaultEvent} {x : Bool} (he : s.window entry.window = some e)
    (hq : s.parcel entry.window entry.parcel = some q) (hn : q.slot = none)
    (hl : s.renewal.importList = [entry]) :
    ∃ y, (s.handing events x).endImport entry = (s.importEnded entry).handing events y := by
  obtain ⟨y, hy⟩ := freeParcel_eq (s := s.handing events x) he hq
  refine ⟨y, ?_⟩
  have hfree : (s.handing events x).freeParcel entry.window entry.parcel =
      (s.withParcel entry.window entry.parcel ParcelRecord.blank).handing events y := by
    rw [hy, withoutParcel_noSlot hn, handing_withParcel]
    rfl
  have hdrop : s.renewal.importList.drop 1 = [] := by rw [hl]; rfl
  rw [State.endImport, hfree]
  show State.startImport (State.handing { s.withParcel entry.window entry.parcel ParcelRecord.blank with
    renewal := { s.renewal with importing := none, importList := s.renewal.importList.drop 1 } }
      events y) = _
  rw [hdrop]
  rfl

end Ends

/-! ### A generation staged in an EMPTY slot (R112, R113) -/

section Staging

variable {s : State} {c d : Ctx} {i j : SlotId} {k : KeySlot} {floor : Nat}

/-- s once slot i holds a staged generation of context c, the floor raised. -/
def State.staging (s : State) (c : Ctx) (i : SlotId) (k : KeySlot) (floor : Nat) : State :=
  { s with keys := { s.keys with
      slots := s.keys.slots.set i k,
      contexts := s.keys.contexts.set c { s.context c with floor := floor } } }

theorem staging_slot (s : State) (c : Ctx) (i j : SlotId) (k : KeySlot) (floor : Nat) :
    (s.staging c i k floor).slot j = if j = i then k else s.slot j := by
  by_cases hj : j = i
  · rw [if_pos hj, hj]
    exact Vector.getElem_set_self _
  · rw [if_neg hj]
    exact Vector.getElem_set_ne i.isLt j.isLt fun x => hj (Fin.ext x).symm

/-- The slots in service once an EMPTY slot holds a staged generation. -/
theorem staging_mem {st : SlotState} (hi : i ≠ 0) (he : (s.slot i).state = .empty)
    (hk : k.state = .staged) (hc : k.context = c) (hst : st ≠ .empty) :
    j ∈ (s.staging c i k floor).slotsIn d st ↔
      (j = i ∧ d = c ∧ st = .staged) ∨ j ∈ s.slotsIn d st := by
  rw [slotsIn_mem, slotsIn_mem, staging_slot]
  by_cases hj : j = i
  · rw [if_pos hj, hk, hc, hj, he]
    constructor
    · rintro ⟨-, hd, hs⟩
      exact .inl ⟨rfl, hd.symm, hs.symm⟩
    · rintro (⟨-, hd, hs⟩ | ⟨-, -, hs⟩)
      · exact ⟨hi, hd.symm, hs.symm⟩
      · exact absurd hs.symm hst
  · rw [if_neg hj]
    simp [hj]

theorem staging_one (h1 : OneEach s) (hk : k.state = .staged) :
    OneEach (s.staging c i k floor) := by
  intro x y hx hy hxy hst hin
  rw [staging_slot, staging_slot] at hxy hst
  rw [staging_slot] at hin
  by_cases hxi : x = i
  · rw [if_pos hxi, hk] at hin
    rcases hin with hin | hin <;> cases hin
  · by_cases hyi : y = i
    · rw [if_neg hxi, if_pos hyi, hk] at hst
      rw [if_neg hxi, hst] at hin
      rcases hin with hin | hin <;> cases hin
    · rw [if_neg hxi, if_neg hyi] at hxy hst
      rw [if_neg hxi] at hin
      exact h1 x y hx hy hxy hst hin

theorem staging_activeSlot (he : (s.slot i).state = .empty) (hk : k.state = .staged) :
    (s.staging c i k floor).activeSlot d = s.activeSlot d := by
  refine congrArg List.head? (List.filter_congr fun j _ => ?_)
  rw [staging_slot]
  by_cases hj : j = i
  · rw [if_pos hj, hj]
    simp [hk, he]
  · rw [if_neg hj]

theorem staging_exhausted (he : (s.slot i).state = .empty) (hk : k.state = .staged) :
    (s.staging c i k floor).exhausted d = s.exhausted d := by
  unfold State.exhausted
  rw [staging_activeSlot he hk]
  cases ha : s.activeSlot d with
  | none => rfl
  | some a =>
    have hne : a ≠ i := by
      rintro rfl
      have hstate := (activeSlot_mem ha).2.2
      rw [he] at hstate
      cases hstate
    dsimp only
    rw [staging_slot, if_neg hne]

theorem foldl_older_least (s : State) : ∀ (l : List SlotId) (i : SlotId), ∀ x ∈ i :: l,
    (s.slot (l.foldl s.older i)).generation ≤ (s.slot x).generation
  | [], i, x, hx => by
    rw [List.mem_singleton.mp hx]
    exact Nat.le_refl _
  | j :: l, i, x, hx => by
    have holder : (s.slot (s.older i j)).generation ≤ (s.slot i).generation ∧
        (s.slot (s.older i j)).generation ≤ (s.slot j).generation := by
      unfold State.older
      split <;> omega
    have hleast := foldl_older_least s l (s.older i j)
    rw [List.foldl_cons]
    have hfirst := hleast _ List.mem_cons_self
    rcases List.mem_cons.mp hx with rfl | hx
    · exact Nat.le_trans hfirst holder.1
    · rcases List.mem_cons.mp hx with rfl | hx
      · exact Nat.le_trans hfirst holder.2
      · exact hleast x (List.mem_cons_of_mem _ hx)

/-- The staged head has the lowest generation. -/
theorem stagedHead_least {h : SlotId} (hh : s.stagedHead c = some h) :
    ∀ x ∈ s.slotsIn c .staged, (s.slot h).generation ≤ (s.slot x).generation := by
  unfold State.stagedHead at hh
  cases hl : s.slotsIn c .staged with
  | nil => rw [hl] at hh; cases hh
  | cons a l =>
    rw [hl] at hh
    rw [← Option.some.inj hh]
    exact foldl_older_least s l a

/-- A generation newer than a staged one is not the staged head. -/
theorem staging_notHead {x : SlotId} (hi : i ≠ 0) (he : (s.slot i).state = .empty)
    (hk : k.state = .staged) (hc : k.context = c) (hx : x ∈ s.slotsIn c .staged)
    (hg : (s.slot x).generation < k.generation) :
    (s.staging c i k floor).stagedHead c ≠ some i := fun hh => by
  have hle := stagedHead_least hh x
    ((staging_mem hi he hk hc (by decide)).mpr (.inr hx))
  have hne : x ≠ i := by
    rintro rfl
    have hstate := (slotsIn_mem.1 hx).2.2
    rw [he] at hstate
    cases hstate
  rw [staging_slot, staging_slot, if_pos rfl, if_neg hne] at hle
  omega

/-- With nothing else staged the new generation is the only one. -/
theorem staging_single (hi : i ≠ 0) (he : (s.slot i).state = .empty) (hk : k.state = .staged)
    (hc : k.context = c) (hn : s.slotsIn c .staged = []) (j : SlotId) :
    j ∈ (s.staging c i k floor).slotsIn c .staged ↔ j = i := by
  rw [staging_mem hi he hk hc (by decide), hn]
  simp

end Staging

/-! ### AT_ONCE discards what else is staged (R96, R114) -/

section Discard

variable {s : State}

theorem gone_gone (k : KeySlot) : k.gone.gone = k.gone := by
  unfold KeySlot.gone
  by_cases h : k.references = 0
  · rw [if_pos h]
    rfl
  · rw [if_neg h]
    exact if_neg h

/-- Slots leave service one after another, but for one that stays. -/
theorem foldl_leave_slot (i j : SlotId) : ∀ (l : List SlotId) (s : State), (∀ x ∈ l, x ≠ 0) →
    (l.foldl (fun t x => if x = i then t else t.updateSlot x KeySlot.leaveService) s).slot j =
      if j ≠ i ∧ j ∈ l then (s.slot j).gone else s.slot j
  | [], s, _ => by simp
  | x :: l, s, h0 => by
    rw [List.foldl_cons, foldl_leave_slot i j l _ fun y hy => h0 y (List.mem_cons_of_mem _ hy)]
    by_cases hx : x = i
    · rw [if_pos hx]
      refine if_congr (and_congr_right fun hj => ?_) rfl rfl
      rw [List.mem_cons, or_iff_right fun h : j = x => hj (h.trans hx)]
    · rw [if_neg hx]
      by_cases hjx : j = x
      · have hslot : (s.updateSlot x KeySlot.leaveService).slot j = (s.slot j).gone := by
          rw [hjx]
          exact slot_updateSlot_same (h0 x List.mem_cons_self) _
        rw [hslot, gone_gone, ite_self, if_pos ⟨hjx ▸ hx, hjx ▸ List.mem_cons_self⟩]
      · have hslot : (s.updateSlot x KeySlot.leaveService).slot j = s.slot j :=
          (slot_updateSlot ..).trans (if_neg fun h => hjx h.1)
        rw [hslot]
        simp only [List.mem_cons, hjx, false_or]

theorem foldl_leave_only (i : SlotId) : ∀ (l : List SlotId) (s : State),
    SlotsOnly s
      (l.foldl (fun t x => if x = i then t else t.updateSlot x KeySlot.leaveService) s)
  | [], _ => ⟨rfl, rfl⟩
  | x :: l, s => by
    rw [List.foldl_cons]
    refine SlotsOnly.trans ?_ (foldl_leave_only i l _)
    split
    · exact ⟨rfl, rfl⟩
    · exact updateSlot_only s x _

/-- s once the slots of a list have left service. -/
def State.left (s : State) (l : List SlotId) : State :=
  { s with keys := { s.keys with
      slots := Vector.ofFn fun x => if x ∈ l then (s.slot x).gone else s.slot x } }

theorem left_slot (s : State) (l : List SlotId) (i : SlotId) :
    (s.left l).slot i = if i ∈ l then (s.slot i).gone else s.slot i :=
  Vector.getElem_ofFn _

theorem discardStaged_eq {c : Ctx} {i : SlotId} {l : List SlotId}
    (hl : ∀ x, x ∈ l ↔ x ≠ i ∧ x ∈ s.slotsIn c .staged) : s.discardStaged c i = s.left l := by
  refine slotsOnly_eq (foldl_leave_only i _ s) fun j => ?_
  rw [State.discardStaged, foldl_leave_slot i j _ s fun x hx => (slotsIn_mem.1 hx).1]
  exact if_congr (hl j).symm rfl rfl

theorem left_one {l : List SlotId} (h1 : OneEach s) : OneEach (s.left l) := by
  have hin : ∀ j, (((s.left l).slot j).state = .active ∨ ((s.left l).slot j).state = .draining) →
      (s.left l).slot j = s.slot j := fun j hj => by
    rw [left_slot] at hj ⊢
    by_cases hjl : j ∈ l
    · rw [if_pos hjl] at hj
      rcases gone_state (s.slot j) with hg | hg <;> rw [hg] at hj <;> rcases hj with hj | hj <;>
        cases hj
    · exact if_neg hjl
  intro x y hx hy hxy hst hxs
  have hys := hst ▸ hxs
  rw [hin x hxs, hin y hys] at hxy hst
  rw [hin x hxs] at hxs
  exact h1 x y hx hy hxy hst hxs

end Discard

/-! ### Staging, and what follows it (R113, R114, R116) -/

section Stage

variable {s : State} {entry : ImportEntry} {m : RenewalRecord} {c : Ctx} {mode : ActivationMode}
  {i : SlotId} {changes : List (Ctx × SlotId)}

theorem clamped_eq (bound n : Nat) :
    (if n = 0 then bound else atMost bound n) = if n = 0 ∨ bound < n then bound else n := by
  rw [atMost_eq]
  by_cases h0 : n = 0
  · rw [if_pos h0, if_pos (.inl h0)]
  rw [if_neg h0]
  by_cases hn : bound < n
  · rw [if_pos (.inr hn), Nat.min_eq_left (Nat.le_of_lt hn)]
  · rw [if_neg (not_or.mpr ⟨h0, hn⟩), Nat.min_eq_right (Nat.le_of_not_lt hn)]

theorem clampLifetime_eq (n : Nat) :
    clampLifetime n = if n = 0 ∨ 1073741824 < n then 1073741824 else n := by
  unfold clampLifetime
  exact clamped_eq _ n

theorem stagedMark_eq (now : Tick) (mode : ActivationMode) (carried : Nat) :
    stagedMark now mode carried =
      if mode ≠ .atMark then (0, false)
      else if reached now (BitVec.ofNat 32 carried) = true then (BitVec.ofNat 32 carried, true)
      else if (BitVec.ofNat 32 carried - now).toNat ≤ 1073741824 then
        (BitVec.ofNat 32 carried, false)
      else (ahead now 1073741824, false) := by
  cases mode
  case atMark => rw [if_neg (not_not.mpr rfl), stagedMark]
  all_goals exact (if_pos (by decide)).symm

/-- s once the renewal m is staged in slot i. -/
def State.renewed (s : State) (c : Ctx) (mode : ActivationMode) (m : RenewalRecord) (i : SlotId) :
    State :=
  s.staging c i (s.stagedSlot c mode m) m.generation

/-- The record of an accepted renewal. -/
def acceptedEvent (entry : ImportEntry) (m : RenewalRecord) (i : SlotId) : FaultEvent :=
  importEvent .keyAccepted entry m.context m.generation m.checkValue i.val

theorem stage_accepts (hs : Settled s) (hi : i ≠ 0) :
    ((s.updateSlot i fun _ => s.stagedSlot c mode m).updateContext c fun row =>
        { row with floor := m.generation }).raise (acceptedEvent entry m i) =
      (s.renewed c mode m i).handing [acceptedEvent entry m i] false := by
  rw [updateSlot_eq hi]
  exact raise_settled (s := s.renewed c mode m i) hs _

theorem stage_atOnce (hs : Settled s) (hi : i ≠ 0) :
    s.stage entry m c .atOnce i =
      (((s.renewed c .atOnce m i).handing [acceptedEvent entry m i] false).discardStaged c
        i).changeover c := by
  rw [← stage_accepts hs hi]
  rfl

theorem stage_promotes (hs : Settled s) (hi : i ≠ 0) (hm : mode ≠ .atOnce) :
    s.stage entry m c mode i =
      let t := (s.renewed c mode m i).handing [acceptedEvent entry m i] false
      if t.stagedHead c = some i then t.headPromoted c else t := by
  rw [← stage_accepts hs hi]
  cases mode
  case atOnce => exact absurd rfl hm
  all_goals rfl

/-- A renewal that waits behind what is staged, or for its trigger. -/
theorem stage_waits (hs : Settled s) (hi : i ≠ 0) (hm : mode ≠ .atOnce)
    (he : (s.slot i).state = .empty)
    (hw : (∃ x ∈ s.slotsIn c .staged, (s.slot x).generation < m.generation) ∨
      s.slotsIn c .staged = [] ∧ (stagedMark s.time.tick mode m.activationMark).2 = false ∧
        s.exhausted c = false) :
    s.stage entry m c mode i =
      (s.renewed c mode m i).handing [acceptedEvent entry m i] false := by
  rw [stage_promotes hs hi hm]
  dsimp only
  rcases hw with ⟨x, hx, hg⟩ | ⟨hn, hmark, hex⟩
  · exact if_neg (staging_notHead hi he rfl rfl hx hg)
  · have hsingle := staging_single (floor := m.generation) hi he
      (k := s.stagedSlot c mode m) rfl rfl hn
    refine (if_pos (stagedHead_single hsingle)).trans ?_
    refine headPromoted_waits (s := (s.renewed c mode m i).handing _ _) hsingle (fun ht => ?_) ?_
    · have hlatch : ((s.renewed c mode m i).slot i).activationLatch = true := ht.2
      rw [State.renewed, staging_slot, if_pos rfl] at hlatch
      exact absurd (hlatch.symm.trans hmark) (by decide)
    · exact (staging_exhausted he rfl).trans hex

/-- A renewal that is the only staged one and changes over. -/
theorem stage_promoted (hs : Settled s) (hi : i ≠ 0) (hm : mode ≠ .atOnce)
    (he : (s.slot i).state = .empty)
    (hcall : (stagedMark s.time.tick mode m.activationMark).2 = true ∨ s.exhausted c = true)
    (h1 : OneEach s) (hn : s.slotsIn c .staged = [])
    (hc : Cascades (s.renewed c mode m i) c changes) :
    ∃ x, s.stage entry m c mode i =
      ((s.renewed c mode m i).changedAll changes).handing
        ([acceptedEvent entry m i] ++ (s.renewed c mode m i).changedAllEvents changes) x := by
  have hsingle := staging_single (c := c) (floor := m.generation) hi he
    (k := s.stagedSlot c mode m) rfl rfl hn
  have hone : OneEach (s.renewed c mode m i) := staging_one h1 rfl
  have hslot : (s.renewed c mode m i).slot i = s.stagedSlot c mode m :=
    (staging_slot ..).trans (if_pos rfl)
  have hcalls : Triggers (s.renewed c mode m i) i ∨ (s.renewed c mode m i).exhausted c = true := by
    refine hcall.imp (fun hmark => ?_) fun hex => (staging_exhausted he rfl).trans hex
    rw [Triggers, hslot]
    refine ⟨show mode = .atMark from ?_, hmark⟩
    by_contra hmode
    rw [stagedMark_eq, if_pos hmode] at hmark
    cases hmark
  rw [stage_promotes hs hi hm]
  dsimp only
  refine ⟨false || !changes.isEmpty, (if_pos (stagedHead_single hsingle)).trans ?_⟩
  rw [(headPromoted_made (s := (s.renewed c mode m i).handing _ _) hone hsingle hcalls hc).1]
  exact changesMade_handing ..

/-- An AT_ONCE renewal changes over alone. -/
theorem stage_alone (hs : Settled s) (hi : i ≠ 0) (he : (s.slot i).state = .empty)
    (h1 : OneEach s)
    (hc : Cascades ((s.renewed c .atOnce m i).left (s.slotsIn c .staged)) c changes) :
    ∃ x, s.stage entry m c .atOnce i =
      (((s.renewed c .atOnce m i).left (s.slotsIn c .staged)).changedAll changes).handing
        ([acceptedEvent entry m i] ++
          ((s.renewed c .atOnce m i).left (s.slotsIn c .staged)).changedAllEvents changes) x := by
  have hmem : ∀ x, x ∈ s.slotsIn c .staged ↔
      x ≠ i ∧ x ∈ (s.renewed c .atOnce m i).slotsIn c .staged := fun x => by
    rw [State.renewed, staging_mem (c := c) hi he rfl rfl (by decide)]
    refine ⟨fun hx => ⟨?_, .inr hx⟩, fun hx => hx.2.resolve_left fun h => hx.1 h.1⟩
    rintro rfl
    have hstate := (slotsIn_mem.1 hx).2.2
    rw [he] at hstate
    cases hstate
  rw [stage_atOnce hs hi,
    discardStaged_eq (s := (s.renewed c .atOnce m i).handing _ _) (l := s.slotsIn c .staged) hmem]
  exact ⟨_, changeover_handing (s := (s.renewed c .atOnce m i).left _)
    (left_one (staging_one h1 rfl)) hc⟩

end Stage

/-! ### The reads of an import (R108 to R110) -/

section Reads

variable {s : State} {run : ImportRun} {entry : ImportEntry} {left : List ImportEntry}
  {data : List Byte} {changes : List (Ctx × SlotId)}

theorem importRead_failed (hi : s.renewal.importing = some run)
    (hl : s.renewal.importList = entry :: left) :
    State.importReadReturned true data s =
      ((s.discard (only .importRead)).raise
        (importEvent .memoryError entry entry.context entry.generation importCode 0)).endImport
          entry := by
  unfold State.importReadReturned
  rw [hi, hl]
  rfl

theorem importRead_kept (hi : s.renewal.importing = some run)
    (hl : s.renewal.importList = entry :: left) (hn : 2 ≤ run.readsLeft) :
    State.importReadReturned false data s =
      { s with renewal := { s.renewal with
          importing := some { data := run.data ++ data, readsLeft := run.readsLeft - 1 } } } := by
  unfold State.importReadReturned
  rw [hi, hl]
  exact if_neg (show ¬run.readsLeft ≤ 1 by omega)

theorem importRead_last (hi : s.renewal.importing = some run)
    (hl : s.renewal.importList = entry :: left) (hn : run.readsLeft ≤ 1) :
    State.importReadReturned false data s = s.importEnds entry (run.data ++ data) := by
  unfold State.importReadReturned
  rw [hi, hl]
  exact if_pos hn

theorem importEnds_refused {reason : RenewalReason}
    (h : s.importChecks entry (renewalRecordOf data) = .inl reason) :
    s.importEnds entry data =
      (s.raise (importEvent .renewalRefused entry entry.context entry.generation reason.code
        0)).endImport entry := by
  unfold State.importEnds
  dsimp only
  rw [h]

theorem importEnds_staged {c : Ctx} {mode : ActivationMode} {i : SlotId}
    (h : s.importChecks entry (renewalRecordOf data) = .inr (c, mode, i)) :
    s.importEnds entry data =
      (s.stage entry (renewalRecordOf data) c mode i).endImport entry := by
  unfold State.importEnds
  dsimp only
  rw [h]

/-- Changeovers leave all but the key table as it is. -/
theorem changedAll_frame (s : State) (l : List (Ctx × SlotId)) :
    s.changedAll l = { s with keys := (s.changedAll l).keys } :=
  (changedAll_sameKeys l (s := s) (u := s) ⟨rfl, rfl⟩).1

theorem changedAll_window (s : State) (l : List (Ctx × SlotId)) (w : WindowIndex) :
    (s.changedAll l).window w = s.window w := by
  rw [changedAll_frame]
  rfl

theorem changedAll_parcel (s : State) (l : List (Ctx × SlotId)) (w : WindowIndex) (p : Nat) :
    (s.changedAll l).parcel w p = s.parcel w p := by
  rw [changedAll_frame]
  rfl

theorem changedAll_renewal (s : State) (l : List (Ctx × SlotId)) :
    (s.changedAll l).renewal = s.renewal := by
  rw [changedAll_frame]

end Reads

/-- Exhaustion is read off the key table. -/
theorem exhausted_keys {s t : State} (h : t.keys = s.keys) (c : Ctx) :
    t.exhausted c = s.exhausted c := by
  unfold State.exhausted State.activeSlot State.slotsIn State.slot
  rw [h]

/-- Slots that leave service are those of before, where these were as before. -/
theorem left_congr {s t : State} {l : List SlotId} (h : ∀ x ∈ l, t.slot x = s.slot x) :
    t.left l = { t with keys := { t.keys with
      slots := Vector.ofFn fun x => if x ∈ l then (s.slot x).gone else t.slot x } } := by
  have hslots : (fun x => if x ∈ l then (t.slot x).gone else t.slot x) =
      fun x => if x ∈ l then (s.slot x).gone else t.slot x := by
    funext x
    by_cases hx : x ∈ l
    · rw [if_pos hx, if_pos hx, h x hx]
    · rw [if_neg hx, if_neg hx]
  rw [State.left, hslots]

/-- A slot that holds something staged is not the one that held nothing. -/
theorem staged_ne {s : State} {c : Ctx} {i x : SlotId} (he : (s.slot i).state = .empty)
    (hx : x ∈ s.slotsIn c .staged) : x ≠ i := by
  rintro rfl
  have hstate := (slotsIn_mem.1 hx).2.2
  rw [he] at hstate
  cases hstate

/-- Settles O59. -/
theorem renewalIsImported : Obligations.RenewalIsImported := by
  intro s r rest run entry e q c mode i changes hs hold himporting hlist he hq hn hc data b ended
    event
  have hbm : ∀ error, (s.landed r rest error).mode = .running :=
    fun error => (landed_mode ..).trans hs.1
  have hbs : ∀ error, Settled (s.landed r rest error) :=
    fun error => by simpa [Settled] using hs.2
  have hbi : ∀ error, (s.landed r rest error).renewal.importing = some run :=
    fun error => (congrArg RenewalUnit.importing (landed_renewal ..)).trans himporting
  have hbl : ∀ error, (s.landed r rest error).renewal.importList = [entry] :=
    fun error => (congrArg RenewalUnit.importList (landed_renewal ..)).trans hlist
  have hslots : ∀ x, b.slot x = s.slot x := fun x => landed_slot ..
  have hbk : b.keys = s.keys := landed_keys ..
  have hbc : b.context c = s.context c := by rw [State.context, hbk]; rfl
  have hstaged : b.slotsIn c .staged = s.slotsIn c .staged := slotsIn_keys hbk c .staged
  have hbt : b.time.tick = s.time.tick := congrArg Timebase.tick (landed_time ..)
  have hends : ∀ (error : Bool) (u v : State) (events : List FaultEvent) (x : Bool),
      State.importReadReturned error (s.returned r.address r.access) (s.landed r rest error) =
        v.endImport entry → v = u.handing events x → u.mode = .running →
      u.window entry.window = some e → u.parcel entry.window entry.parcel = some q →
      u.renewal = s.renewal →
      GoesTo s (.importReadDone error) (ended u) [] events := by
    intro error u v events x hread hv hm hw hp hr
    obtain ⟨y, hy⟩ := endImport_handing (events := events) (x := x) hw hp hn
      ((congrArg RenewalUnit.importList hr).trans hlist)
    have hended : ended u = u.importEnded entry := by
      rw [State.importEnded, hr]
    refine goesTo_completion hold (d := only .importRead) rfl rfl (by exact hm) ⟨y, ?_⟩
    rw [hread, hv, hy, hended]
  refine ⟨fun hleft => ?kept, ?failed, fun hleft => ?last⟩
  case kept =>
    refine goesTo_completion hold (d := only .importRead) rfl rfl (hbm false) ⟨false, ?_⟩
    rw [importRead_kept (hbi false) (hbl false) hleft, landed_renewal]
    exact settled_handing (by exact hbs false)
  case failed =>
    refine hends true ((s.landed r rest true).discard (only .importRead)) _
      (event .memoryError 5 0) false (importRead_failed (hbi true) (hbl true)) ?_ (hbm true)
      ((landed_window ..).trans he) ((landed_parcel ..).trans hq) (landed_renewal ..)
    rw [hc]
    exact raise_settled (by exact hbs true) _
  case last =>
    intro m key reason
    have hread : State.importReadReturned false (s.returned r.address r.access) b =
        b.importEnds entry data := importRead_last (hbi false) (hbl false) hleft
    have hreason : reason = b.importReason entry m c := by
      rw [State.importReason, hbc, hstaged, State.unwrapped, landed_renewal]
      simp only [hslots]
      rfl
    refine ⟨fun x hx => ?refused, fun hnone hmode hi hempty hlowest => ?staged⟩
    case refused =>
      obtain ⟨code, hchecks, hcode⟩ := importChecks_refused hc (hreason.symm.trans hx)
      refine hends false b _ (event .renewalRefused x 0) false
        (hread.trans (importEnds_refused hchecks)) ?_ (hbm false)
        ((landed_window ..).trans he) ((landed_parcel ..).trans hq) (landed_renewal ..)
      rw [hc, hcode]
      exact raise_settled (hbs false) _
    case staged =>
      intro now carried mark lifetime slot staged accepted
      have hbe : (b.slot i).state = .empty := (congrArg KeySlot.state (hslots i)).trans hempty
      obtain ⟨hchecks, hcontext, hgeneration, hlength⟩ := importChecks_passed hc
        (hreason.symm.trans hnone) hmode hi hbe
        fun x h0 hx => by rw [hslots]; exact hlowest x h0 hx
      have hmark : stagedMark b.time.tick mode m.activationMark = mark := by
        rw [hbt]
        exact stagedMark_eq ..
      have hslot : b.stagedSlot c mode m = slot := by
        rw [State.stagedSlot, hmark, clampLifetime_eq, atMost_eq, State.unwrapped, landed_renewal]
        rfl
      have hrenewed : b.renewed c mode m i = staged := by
        rw [State.renewed, hslot, State.staging, hbk, hbc]
      have haccepted : [acceptedEvent entry m i] = accepted := by
        rw [acceptedEvent, hcontext, hgeneration, hc]
        rfl
      have hexhausted : b.exhausted c = s.exhausted c := exhausted_keys hbk c
      have hb1 : OneEach s → OneEach b := fun h1 =>
        oneEach_service h1 fun x => by rw [hslots]; exact ⟨rfl, rfl⟩
      have hread := hread.trans (importEnds_staged hchecks)
      have hwindow : staged.window entry.window = some e := (landed_window ..).trans he
      have hparcel : staged.parcel entry.window entry.parcel = some q :=
        (landed_parcel ..).trans hq
      have hrenewal : staged.renewal = s.renewal := landed_renewal ..
      refine ⟨fun hm hwait => ?waits, fun hm hcall h1 hnil hcascades => ?changes,
        fun hm h1 => ?atOnce⟩
      case waits =>
        have hwaits : (∃ x ∈ b.slotsIn c .staged, (b.slot x).generation < m.generation) ∨
            b.slotsIn c .staged = [] ∧ (stagedMark b.time.tick mode m.activationMark).2 = false ∧
              b.exhausted c = false := by
          rw [hstaged, hmark, hexhausted]
          refine hwait.imp_left fun ⟨hne, hall⟩ => ?_
          obtain ⟨x, hx⟩ := List.exists_mem_of_ne_nil _ hne
          exact ⟨x, hx, by rw [hslots]; exact hall x hx⟩
        refine hends false staged _ accepted false hread ?_ (hbm false) hwindow hparcel hrenewal
        rw [stage_waits (hbs false) hi hm hbe hwaits, hrenewed, haccepted]
      case changes =>
        obtain ⟨x, hx⟩ := stage_promoted (entry := entry) (hbs false) hi hm hbe
          (by rw [hmark, hexhausted]; exact hcall) (hb1 h1) (hstaged.trans hnil)
          (by rw [hrenewed]; exact hcascades)
        rw [hrenewed, haccepted] at hx
        exact hends false (staged.changedAll changes) _ _ x hread hx
          ((changedAll_mode ..).trans (hbm false)) ((changedAll_window ..).trans hwindow)
          ((changedAll_parcel ..).trans hparcel) ((changedAll_renewal ..).trans hrenewal)
      case atOnce =>
        intro alone hcascades
        subst hm
        have halone : (b.renewed c .atOnce m i).left (b.slotsIn c .staged) = alone := by
          rw [hstaged, hrenewed]
          refine left_congr fun x hx => ?_
          rw [← hrenewed, State.renewed, staging_slot, if_neg (staged_ne hempty hx), hslots]
        obtain ⟨x, hx⟩ := stage_alone (entry := entry) (hbs false) hi hbe (hb1 h1)
          (by rw [halone]; exact hcascades)
        rw [halone, haccepted] at hx
        exact hends false (alone.changedAll changes) _ _ x hread hx
          ((changedAll_mode ..).trans (hbm false)) ((changedAll_window ..).trans hwindow)
          ((changedAll_parcel ..).trans hparcel) ((changedAll_renewal ..).trans hrenewal)

end Sys2Proof.Machine
end

section
/-! PROOFS. The entries of the tag job queue, given one after another (R13, R60, R61). -/

namespace Sys2Proof.Machine

section Records

variable {s t : State} {w v : WindowIndex} {p : Nat} {l l' : List (WindowIndex × Nat)}

/-- A window after its records have changed, each by its index. -/
def Window.each (e : Window) (g : Nat → ParcelRecord → ParcelRecord) : Window :=
  { e with parcels := e.parcels.mapIdx g }

theorem modify_mapIdx {α : Type} (f : α → α) (p : Nat) (l : List α) :
    l.modify p f = l.mapIdx fun i x => if i = p then f x else x := by
  refine List.ext_getElem? fun i => ?_
  rw [List.getElem?_modify, List.getElem?_mapIdx]
  by_cases hi : p = i
  · simp [hi]
  · have hi' : ¬i = p := fun x => hi x.symm
    simp [hi, hi']

theorem each_modify (e : Window) (p : Nat) (f : ParcelRecord → ParcelRecord) :
    ({ e with parcels := e.parcels.modify p f } : Window) =
      e.each fun i x => if i = p then f x else x := by
  rw [Window.each, modify_mapIdx]

theorem each_each (e : Window) (g g' : Nat → ParcelRecord → ParcelRecord) :
    (e.each g).each g' = e.each fun i x => g' i (g i x) := by
  unfold Window.each
  dsimp only
  rw [List.mapIdx_mapIdx]
  rfl

theorem each_id (e : Window) : e.each (fun _ x => x) = e := by
  unfold Window.each
  rw [show e.parcels.mapIdx (fun _ x => x) = e.parcels from ?_]
  exact List.ext_getElem? fun i => by simp

/-- The windows after a record has changed. -/
theorem updateParcel_window (s : State) (w v : WindowIndex) (p : Nat)
    (f : ParcelRecord → ParcelRecord) :
    (s.updateParcel w p f).window v =
      (s.window v).map fun e => e.each fun i x => if v = w ∧ i = p then f x else x := by
  have hother : v ≠ w → (s.window v).map (fun e => e.each fun i x =>
      if v = w ∧ i = p then f x else x) = s.window v := fun hv => by
    simp only [hv, false_and, if_false, each_id]
    cases s.window v <;> rfl
  unfold State.updateParcel
  cases hw : s.window w with
  | none =>
    by_cases hv : v = w
    · rw [hv, hw]
      rfl
    · exact (hother hv).symm
  | some e =>
    dsimp only
    rw [window_setWindow]
    by_cases hv : v = w
    · rw [if_pos hv, hv, hw, each_modify]
      simp
    · rw [if_neg hv]
      exact (hother hv).symm

theorem windows_eq {g : WindowIndex → Option Window} (h : ∀ w, s.window w = g w) :
    s.windows = Vector.ofFn g :=
  Vector.ext fun k hk => by
    rw [Vector.getElem_ofFn]
    exact h ⟨k, hk⟩

/-- s with the parcels of a list no longer marked deferred. -/
def State.undeferred (s : State) (l : List (WindowIndex × Nat)) : State :=
  { s with windows := Vector.ofFn fun w => (s.window w).map fun e =>
      e.each fun p x => if (w, p) ∈ l then { x with deferred := false } else x }

@[simp] theorem undeferred_window (s : State) (l : List (WindowIndex × Nat)) (w : WindowIndex) :
    (s.undeferred l).window w = (s.window w).map fun e =>
      e.each fun p x => if (w, p) ∈ l then { x with deferred := false } else x :=
  Vector.getElem_ofFn _

theorem undeferred_of (hw : ∀ w, t.window w = (s.window w).map fun e =>
      e.each fun p x => if (w, p) ∈ l then { x with deferred := false } else x) :
    t.windows = (s.undeferred l).windows :=
  windows_eq hw

theorem undeferred_nil (s : State) : s.undeferred [] = s := by
  have h : s.windows = (s.undeferred []).windows := undeferred_of fun w => by
    simp only [List.not_mem_nil, if_false, each_id]
    cases s.window w <;> rfl
  show { s with windows := (s.undeferred []).windows } = s
  rw [← h]

theorem updateParcel_undeferred (s : State) (w : WindowIndex) (p : Nat) :
    s.updateParcel w p (fun x => { x with deferred := false }) = s.undeferred [(w, p)] := by
  rw [updateParcel_windows, undeferred_of (s := s) (l := [(w, p)])]
  · rfl
  · intro v
    rw [updateParcel_window]
    simp

theorem undeferred_undeferred (s : State) (l l' : List (WindowIndex × Nat)) :
    (s.undeferred l).undeferred l' = s.undeferred (l ++ l') := by
  have h : ((s.undeferred l).undeferred l').windows = (s.undeferred (l ++ l')).windows :=
    undeferred_of fun w => by
      rw [undeferred_window, undeferred_window, Option.map_map]
      refine congrArg (fun g => (s.window w).map g) (funext fun e => ?_)
      refine (each_each ..).trans (congrArg e.each (funext fun p => funext fun x => ?_))
      by_cases h1 : (w, p) ∈ l <;> by_cases h2 : (w, p) ∈ l' <;> simp [h1, h2]
  show { s with windows := ((s.undeferred l).undeferred l').windows } = _
  rw [h]
  rfl

end Records

section Given

variable {s : State} {k m : Nat}

/-- The jobs of the deferred parcels that the next k entries are given to. -/
def State.givenJobs (s : State) (k : Nat) : List Job :=
  (s.tag.deferred.take k).map fun d => s.deferredJob d.1 d.2

/-- s once its next k entries have been given to deferred parcels, as far as there are any. -/
def State.given (s : State) (k : Nat) : State :=
  { s.undeferred (s.tag.deferred.take k) with
    tag := { s.tag with
      queue := s.tag.queue ++ s.givenJobs k, deferred := s.tag.deferred.drop k } }

theorem given_nothing (h : s.tag.deferred = []) (k : Nat) : s.given k = s := by
  unfold State.given State.givenJobs
  rw [h, List.take_nil, List.drop_nil, undeferred_nil, List.map_nil, List.append_nil]
  rw [← h]

theorem given_zero (s : State) : s.given 0 = s := by
  unfold State.given State.givenJobs
  rw [List.take_zero, undeferred_nil, List.map_nil, List.append_nil]
  rfl

theorem given_window (s : State) (k : Nat) (w : WindowIndex) :
    (s.given k).window w = (s.window w).map fun e =>
      e.each fun p x => if (w, p) ∈ s.tag.deferred.take k then { x with deferred := false } else x := by
  have hwindows : (s.given k).windows = (s.undeferred (s.tag.deferred.take k)).windows := rfl
  rw [← undeferred_window, State.window, hwindows]
  rfl

theorem given_deferredJob (s : State) (k : Nat) (w : WindowIndex) (p : Nat) :
    (s.given k).deferredJob w p = s.deferredJob w p := by
  have hrole : ((s.given k).window w).any (fun e => decide (e.role = .renewal)) =
      (s.window w).any fun e => decide (e.role = .renewal) := by
    rw [given_window, Option.any_map]
    rfl
  unfold State.deferredJob
  rw [hrole]
  rfl

theorem given_given (s : State) (k m : Nat) : (s.given k).given m = s.given (k + m) := by
  have hjobs : s.givenJobs k ++ (s.given k).givenJobs m = s.givenJobs (k + m) := by
    unfold State.givenJobs
    simp only [given_deferredJob]
    rw [List.take_add, List.map_append]
    rfl
  have hwindows : (s.undeferred (s.tag.deferred.take k)).undeferred
      ((s.tag.deferred.drop k).take m) = s.undeferred (s.tag.deferred.take (k + m)) := by
    rw [undeferred_undeferred, List.take_add]
  have hqueue : (s.given k).tag.queue ++ (s.given k).givenJobs m = s.tag.queue ++ s.givenJobs (k + m) := by
    rw [← hjobs, ← List.append_assoc]
    rfl
  have hdeferred : (s.given k).tag.deferred.drop m = s.tag.deferred.drop (k + m) :=
    List.drop_drop ..
  calc (s.given k).given m
      = { (s.undeferred (s.tag.deferred.take k)).undeferred ((s.tag.deferred.drop k).take m) with
          tag := { s.tag with
            queue := (s.given k).tag.queue ++ (s.given k).givenJobs m,
            deferred := (s.given k).tag.deferred.drop m } } := rfl
    _ = s.given (k + m) := by
        rw [hwindows, hqueue, hdeferred]
        rfl

/-- Beyond the last deferred parcel no entry is given. -/
theorem given_all (h : s.tag.deferred.length ≤ k) (hkm : k ≤ m) : s.given m = s.given k := by
  obtain ⟨d, rfl⟩ := Nat.exists_eq_add_of_le hkm
  rw [← given_given]
  exact given_nothing (List.drop_eq_nil_of_le h) d

theorem given_length (s : State) (k : Nat) :
    (s.given k).tag.queue.length = s.tag.queue.length + min k s.tag.deferred.length := by
  simp [State.given, State.givenJobs]

theorem giveEntry_given (hw : s.tag.waitingSeal = none) :
    s.giveEntry = s.given (min 1 (16 - s.tag.queue.length)) := by
  by_cases hroom : s.tag.queue.length < 16
  · rw [show min 1 (16 - s.tag.queue.length) = 1 by omega]
    cases hd : s.tag.deferred with
    | nil => rw [giveEntry_nothing hd hw, given_nothing hd]
    | cons d rest =>
      obtain ⟨w, p⟩ := d
      unfold State.giveEntry State.given State.givenJobs
      rw [if_pos (jobRoom_free hroom), hd]
      dsimp only
      have hkind : s.checkKind w =
          if (s.window w).any (fun e => decide (e.role = .renewal)) then .checkRenewal
          else .check := by
        unfold State.checkKind
        cases s.window w <;> simp
      rw [updateParcel_undeferred, hkind]
      rfl
  · rw [giveEntry_full (by omega), show min 1 (16 - s.tag.queue.length) = 0 by omega, given_zero]

/-- Free entries, given one after another while no seal waits. -/
theorem giveEntries_given : ∀ (n : Nat) {s : State}, s.tag.waitingSeal = none →
    State.giveEntries n s = s.given (min n (16 - s.tag.queue.length))
  | 0, s, _ => by rw [State.giveEntries, Nat.zero_min, given_zero]
  | n + 1, s, hw => by
    rw [State.giveEntries, giveEntry_given hw]
    cases hd : s.tag.deferred with
    | nil => rw [given_nothing hd, given_nothing hd, giveEntries_given n hw, given_nothing hd]
    | cons d rest =>
      have hlength := given_length s (min 1 (16 - s.tag.queue.length))
      rw [hd, List.length_cons] at hlength
      rw [giveEntries_given n (s := s.given _) hw, given_given]
      congr 1
      omega

/-- After as many entries as are free nothing more is given. -/
theorem given_stays (hw : s.tag.waitingSeal = none) (hk : 16 - s.tag.queue.length ≤ k) (n : Nat) :
    State.giveEntries n (s.given k) = s.given k := by
  refine giveEntries_stays ?_ n
  by_cases hd : s.tag.deferred.length ≤ k
  · exact giveEntry_nothing (List.drop_eq_nil_of_le hd) hw
  · refine giveEntry_full ?_
    rw [given_length]
    omega

/-- Free entries, given while a job runs. -/
theorem tagSettle_gives (hw : s.tag.waitingSeal = none) (hr : s.tag.running ≠ none) :
    s.tagSettle = s.given (16 - s.tag.queue.length) := by
  have hfirst : State.giveEntries 17 s = s.given (16 - s.tag.queue.length) := by
    rw [giveEntries_given 17 hw, Nat.min_eq_right (by omega)]
  have hstart : (s.given (16 - s.tag.queue.length)).startNext = s.given _ := startNext_running hr
  rw [State.tagSettle, hfirst, hstart, given_stays hw (Nat.le_refl _)]

end Given

/-! ### The head of the queue starts between two givings (R60, R61) -/

section Start

variable {s : State} {j : Job} {js : List Job} {e : Window} {k : Nat}

theorem seals_deferredJob (s : State) (w : WindowIndex) (p : Nat) :
    (s.deferredJob w p).kind.seals = false := by
  unfold State.deferredJob
  dsimp only
  split <;> rfl

/-- A check starts as though its record were blank. -/
theorem started_check (hk : j.kind.seals = false) (q : ParcelRecord) :
    j.started q = j.started ParcelRecord.blank := by
  rw [Job.started, Job.started, hk]
  rfl

theorem reads_check (hk : j.kind.seals = false) {e' : Window} (hb : e'.base = e.base)
    (q : ParcelRecord) : j.reads e' q = j.reads e ParcelRecord.blank := by
  obtain ⟨w, p, kind, o⟩ := j
  cases kind with
  | sealData => cases hk
  | sealNotice => cases hk
  | check => simp only [Job.reads, headRead, hb]
  | checkRenewal => simp only [Job.reads, headRead, hb]

/-- s once the head of its queue has started, the jobs js left behind it. -/
def State.starts (s : State) (js : List Job) (run : Option Running) (l : List InternalRequest) :
    State :=
  State.wantAll { s with tag := { s.tag with queue := js, running := run } } l

/-- Entries given to a state whose head has just started. -/
theorem starts_given (s : State) (js : List Job) (run : Option Running)
    (l : List InternalRequest) (k : Nat) :
    (s.starts js run l).given k = (s.given k).starts (js ++ s.givenJobs k) run l := by
  unfold State.starts State.given State.givenJobs
  rfl

theorem giveEntries_starts (hw : s.tag.waitingSeal = none) (js : List Job) (run : Option Running)
    (l : List InternalRequest) :
    State.giveEntries 17 (s.starts js run l) =
      (s.given (16 - js.length)).starts (js ++ s.givenJobs (16 - js.length)) run l := by
  have hmin : min 17 (16 - js.length) = 16 - js.length := by omega
  rw [← starts_given, ← hmin]
  exact giveEntries_given 17 (s := s.starts js run l) hw

theorem given_parcel {w : WindowIndex} {p : Nat} (he : s.window w = some e)
    (h : (s.parcel w p).isSome = true) (k : Nat) :
    ∃ e' q, (s.given k).window w = some e' ∧ e'.base = e.base ∧ (s.given k).parcel w p = some q := by
  have hparcel : ((s.given k).parcel w p).isSome = true := by
    unfold State.parcel at h ⊢
    rw [he] at h
    rw [given_window, he]
    simpa [Window.each] using h
  obtain ⟨q, hq⟩ := Option.isSome_iff_exists.mp hparcel
  exact ⟨_, q, (given_window ..).trans (congrArg _ he), rfl, hq⟩

/-- With nothing in the queue and nothing deferred the engine rests. -/
theorem tagSettle_idle (hw : s.tag.waitingSeal = none)
    (hq : (s.given (17 - s.tag.queue.length)).tag.queue = []) :
    s.tagSettle = s.given (17 - s.tag.queue.length) := by
  have hlength := given_length s (17 - s.tag.queue.length)
  rw [hq, List.length_nil] at hlength
  have hqueue : s.tag.queue = [] := List.length_eq_zero_iff.mp (by omega)
  have hd : s.tag.deferred = [] := List.length_eq_zero_iff.mp (by omega)
  rw [given_nothing hd, tagSettle_rests hd hw (.inr hqueue)]

/-- The head of the queue starts, and the entry it frees is given as well. -/
theorem tagSettle_next (hw : s.tag.waitingSeal = none) (hr : s.tag.running = none)
    (hq : (s.given (17 - s.tag.queue.length)).tag.queue = j :: js) (he : s.window j.window = some e)
    (hp : (s.parcel j.window j.parcel).isSome = true) (hk : j.kind.seals = false) :
    s.tagSettle = (s.given (17 - s.tag.queue.length)).starts js
      (some (j.started ParcelRecord.blank)) (j.reads e ParcelRecord.blank) := by
  have hsplit : ∃ js' m, (s.given (16 - s.tag.queue.length)).tag.queue = j :: js' ∧
      js = js' ++ (s.given (16 - s.tag.queue.length)).givenJobs m ∧ m = 16 - js'.length ∧
      (s.given (16 - s.tag.queue.length)).given m = s.given (17 - s.tag.queue.length) := by
    have hlength := given_length s (16 - s.tag.queue.length)
    have htotal := given_length s (17 - s.tag.queue.length)
    rw [hq, List.length_cons] at htotal
    cases hg : (s.given (16 - s.tag.queue.length)).tag.queue with
    | nil =>
      rw [hg, List.length_nil] at hlength
      omega
    | cons j' js' =>
      rw [hg, List.length_cons] at hlength
      have hgiven : (s.given (16 - s.tag.queue.length)).given (16 - js'.length) =
          s.given (17 - s.tag.queue.length) := by
        rw [given_given]
        by_cases hd : s.tag.deferred.length ≤ 16 - s.tag.queue.length
        · exact (given_all hd (Nat.le_add_right ..)).trans (given_all hd (by omega)).symm
        · congr 1
          omega
      have hqueue : (s.given (17 - s.tag.queue.length)).tag.queue =
          (j' :: js') ++ (s.given (16 - s.tag.queue.length)).givenJobs (16 - js'.length) := by
        rw [← hgiven, ← hg]
        rfl
      rw [hq, List.cons_append, List.cons.injEq] at hqueue
      exact ⟨js', _, by rw [hqueue.1], hqueue.2, rfl, hgiven⟩
  obtain ⟨js', m, hqueue, hjs, hm, hgiven⟩ := hsplit
  obtain ⟨e', q, he', hbase, hq'⟩ := given_parcel he hp (16 - s.tag.queue.length)
  have hfirst : State.giveEntries 17 s = s.given (16 - s.tag.queue.length) := by
    rw [giveEntries_given 17 hw, Nat.min_eq_right (by omega)]
  have hstart : (s.given (16 - s.tag.queue.length)).startNext =
      (s.given (16 - s.tag.queue.length)).starts js' (some (j.started q)) (j.reads e' q) :=
    startNext_starts hr hqueue he' hq'
  rw [State.tagSettle, hfirst, hstart, started_check hk, reads_check hk hbase,
    giveEntries_starts (s := s.given _) hw, ← hm, hgiven, hjs]

/-- No seal waits in the queue, or for room in it. -/
def Unsealed (s : State) : Prop :=
  (∀ j ∈ s.tag.queue, j.kind.seals = false) ∧ s.tag.waitingSeal = none

theorem unsealed_given (h : Unsealed s) (k : Nat) : Unsealed (s.given k) := by
  refine ⟨fun j hj => ?_, h.2⟩
  rcases List.mem_append.mp hj with hj | hj
  · exact h.1 j hj
  · obtain ⟨d, -, rfl⟩ := List.mem_map.mp hj
    exact seals_deferredJob s d.1 d.2

theorem unsealed_giveEntries (h : Unsealed s) (n : Nat) : Unsealed (State.giveEntries n s) := by
  rw [giveEntries_given n h.2]
  exact unsealed_given h _

/-- What the start of the queue's head changes. -/
theorem startNext_cases (s : State) : s.startNext = s ∨
    ∃ j js run l, s.tag.queue = j :: js ∧ s.startNext = s.starts js run l := by
  unfold State.startNext
  cases hr : s.tag.running with
  | some _ => exact .inl rfl
  | none =>
    cases hq : s.tag.queue with
    | nil => exact .inl rfl
    | cons j js =>
      refine .inr ⟨j, js, ?_⟩
      dsimp only
      split
      · rw [beginJob_eq]
        exact ⟨_, _, rfl, rfl⟩
      · refine ⟨none, [], rfl, ?_⟩
        rw [State.starts, wantAll_nil, ← hr]

theorem unsealed_startNext (h : Unsealed s) : Unsealed s.startNext := by
  rcases startNext_cases s with hs | ⟨j, js, run, l, hq, hs⟩
  · rwa [hs]
  · rw [hs]
    exact ⟨fun i hi => h.1 i (hq ▸ List.mem_cons_of_mem _ hi), h.2⟩

theorem unsealed_tagSettle (h : Unsealed s) : Unsealed s.tagSettle :=
  unsealed_giveEntries (unsealed_startNext (unsealed_giveEntries h 17)) 17

/-- The tag engine's settling leaves the key table, and what the step hands on. -/
theorem tagSettle_keeps (h : Unsealed s) :
    s.tagSettle.keys = s.keys ∧ s.tagSettle.transit = s.transit ∧ s.tagSettle.mode = s.mode := by
  have hgive : ∀ {t : State}, Unsealed t → ∀ n, (State.giveEntries n t).keys = t.keys ∧
      (State.giveEntries n t).transit = t.transit ∧ (State.giveEntries n t).mode = t.mode :=
    fun ht n => by
      rw [giveEntries_given n ht.2]
      exact ⟨rfl, rfl, rfl⟩
  have hstart : ∀ t : State, t.startNext.keys = t.keys ∧ t.startNext.transit = t.transit ∧
      t.startNext.mode = t.mode := fun t => by
    rcases startNext_cases t with ht | ⟨j, js, run, l, -, ht⟩ <;> rw [ht] <;> exact ⟨rfl, rfl, rfl⟩
  have h1 := unsealed_giveEntries h 17
  obtain ⟨a1, a2, a3⟩ := hgive h 17
  obtain ⟨b1, b2, b3⟩ := hstart (State.giveEntries 17 s)
  obtain ⟨c1, c2, c3⟩ := hgive (unsealed_startNext h1) 17
  exact ⟨(c1.trans b1).trans a1, (c2.trans b2).trans a2, (c3.trans b3).trans a3⟩

end Start

end Sys2Proof.Machine
end

section
/-! PROOFS. PURGE (R21, R75, R97, R155). -/

namespace Sys2Proof.Machine

/-! ### Parcels that hold a slot go FREE (R21) -/

section Parcels

variable {s t u : State} {w v : WindowIndex} {p : Nat} {l : List (WindowIndex × Nat)}

/-- A record as a purge leaves it. -/
def ParcelRecord.purged (x : ParcelRecord) : ParcelRecord :=
  if x.slot.isSome = true then ParcelRecord.blank else x

theorem purged_purged (x : ParcelRecord) : x.purged.purged = x.purged := by
  unfold ParcelRecord.purged
  by_cases h : x.slot.isSome = true
  · rw [if_pos h]
    rfl
  · rw [if_neg h, if_neg h]

/-- s and t differ in windows, in key slots but for the null slot, and in whether the
composer examines. -/
def Purging (s t : State) : Prop :=
  t = { s with
    windows := t.windows, keys := { s.keys with slots := t.keys.slots },
    transit := { s.transit with examine := t.transit.examine } } ∧ t.slot 0 = s.slot 0

theorem purging_refl (s : State) : Purging s s := ⟨rfl, rfl⟩

theorem purging_trans (h1 : Purging s t) (h2 : Purging t u) : Purging s u := by
  refine ⟨?_, h2.2.trans h1.2⟩
  obtain ⟨ht, -⟩ := h1
  obtain ⟨hu, -⟩ := h2
  rw [ht] at hu
  exact hu

theorem purging_foldl {α : Type} {f : State → α → State} (h : ∀ s a, Purging s (f s a)) :
    ∀ (l : List α) (s : State), Purging s (l.foldl f s)
  | [], s => purging_refl s
  | a :: l, s => purging_trans (h s a) (purging_foldl h l (f s a))

/-- Where a record is as the change would leave it, nothing changes. -/
theorem updateParcel_same {f : ParcelRecord → ParcelRecord}
    (h : ∀ q, s.parcel w p = some q → f q = q) : s.updateParcel w p f = s := by
  unfold State.parcel at h
  unfold State.updateParcel
  cases he : s.window w with
  | none => rfl
  | some e =>
    rw [he] at h
    have hmodify : e.parcels.modify p f = e.parcels := by
      refine List.ext_getElem? fun i => ?_
      rw [modify_mapIdx, List.getElem?_mapIdx]
      cases hq : e.parcels[i]? with
      | none => rfl
      | some q =>
        by_cases hi : i = p
        · exact congrArg some ((if_pos hi).trans (h q (hi ▸ hq)))
        · exact congrArg some (if_neg hi)
    dsimp only
    rw [hmodify]
    show s.setWindow w (some e) = s
    have hset : s.windows.set w (some e) = s.windows := by
      refine Vector.ext fun k hk => ?_
      rw [Vector.getElem_set]
      split
      · rename_i hkw
        subst hkw
        exact he.symm
      · rfl
    rw [State.setWindow, hset]

theorem withoutParcel_purging (s : State) (w : WindowIndex) (p : Nat) (q : ParcelRecord) (x : Bool) :
    Purging s { s.withoutParcel w p q with transit := { s.transit with examine := x } } := by
  unfold State.withoutParcel
  cases q.slot with
  | none => exact ⟨rfl, rfl⟩
  | some i =>
    by_cases hi : i = 0
    · dsimp only
      rw [State.updateSlot, if_pos hi]
      exact ⟨rfl, rfl⟩
    · dsimp only
      rw [updateSlot_eq hi]
      exact ⟨rfl, Vector.getElem_set_ne i.isLt (Nat.zero_lt_succ _) fun x => hi (Fin.ext x)⟩

/-- A record that a purge frees, or leaves. -/
theorem purgeParcel_eq (w : WindowIndex) (s : State) (p : Nat) :
    Purging s (State.purgeParcel w s p) ∧
      (State.purgeParcel w s p).windows = (s.updateParcel w p ParcelRecord.purged).windows := by
  unfold State.purgeParcel
  cases hq : s.parcel w p with
  | none =>
    rw [updateParcel_same fun q h => by rw [hq] at h; cases h]
    exact ⟨purging_refl s, rfl⟩
  | some q =>
    dsimp only
    by_cases hslot : q.slot.isSome = true
    · obtain ⟨e, he⟩ : ∃ e, s.window w = some e := by
        unfold State.parcel at hq
        cases he : s.window w with
        | none => rw [he] at hq; cases hq
        | some e => exact ⟨e, rfl⟩
      obtain ⟨x, hx⟩ := freeParcel_eq he hq
      rw [if_pos hslot, hx]
      refine ⟨withoutParcel_purging s w p q x, ?_⟩
      rw [updateParcel_const hq, ParcelRecord.purged, if_pos hslot]
      rfl
    · rw [if_neg hslot, updateParcel_same fun q' h => ?_]
      · exact ⟨purging_refl s, rfl⟩
      · obtain rfl := Option.some.inj (hq.symm.trans h)
        exact if_neg hslot

theorem purgeParcel_window (w : WindowIndex) (s : State) (p : Nat) (v : WindowIndex) :
    (State.purgeParcel w s p).window v = (s.window v).map fun e =>
      e.each fun i x => if v = w ∧ i = p then x.purged else x := by
  rw [← updateParcel_window, State.window, (purgeParcel_eq w s p).2]
  rfl

theorem map_each_each (o : Option Window) (g g' : Window → Nat → ParcelRecord → ParcelRecord)
    (h : ∀ e h, g' (e.each h) = g' e) :
    (o.map fun e => e.each (g e)).map (fun e => e.each (g' e)) =
      o.map fun e => e.each fun i x => g' e i (g e i x) := by
  rw [Option.map_map]
  refine congrArg (fun f => o.map f) (funext fun e => ?_)
  show (e.each (g e)).each (g' (e.each (g e))) = _
  rw [h, each_each]

/-- A purge of one record after that of others. -/
theorem purged_or {a b : Prop} [Decidable a] [Decidable b] (x : ParcelRecord) :
    (if b then (if a then x.purged else x).purged else if a then x.purged else x) =
      if a ∨ b then x.purged else x := by
  by_cases ha : a <;> by_cases hb : b <;> simp [ha, hb, purged_purged]

theorem purgeParcels_window (w : WindowIndex) (s : State) (v : WindowIndex) : ∀ n,
    ((List.range n).foldl (State.purgeParcel w) s).window v = (s.window v).map fun e =>
      e.each fun i x => if v = w ∧ i < n then x.purged else x
  | 0 => by
    simp only [List.range_zero, List.foldl_nil, Nat.not_lt_zero, and_false, if_false, each_id]
    cases s.window v <;> rfl
  | n + 1 => by
    rw [List.range_succ, List.foldl_append, List.foldl_cons, List.foldl_nil, purgeParcel_window,
      purgeParcels_window w s v n]
    refine (map_each_each _ _ _ fun _ _ => rfl).trans (congrArg (fun f => (s.window v).map f) (funext fun e => congrArg e.each
      (funext fun i => funext fun x => (purged_or x).trans (if_congr ?_ rfl rfl))))
    rw [Nat.lt_succ_iff_lt_or_eq]
    tauto

theorem purgeWindow_window (s : State) (w v : WindowIndex) :
    (s.purgeWindow w).window v = (s.window v).map fun e =>
      e.each fun i x => if v = w ∧ i < e.count then x.purged else x := by
  unfold State.purgeWindow
  cases he : s.window w with
  | none =>
    dsimp only
    by_cases hv : v = w
    · rw [hv, he]
      rfl
    · simp only [hv, false_and, if_false, each_id]
      cases s.window v <;> rfl
  | some e =>
    dsimp only
    rw [purgeParcels_window]
    by_cases hv : v = w
    · rw [hv, he]
      rfl
    · simp only [hv, false_and]

theorem purgeWindows_window (v : WindowIndex) : ∀ (l : List WindowIndex) (s : State),
    (l.foldl State.purgeWindow s).window v = (s.window v).map fun e =>
      e.each fun i x => if v ∈ l ∧ i < e.count then x.purged else x
  | [], s => by
    simp only [List.foldl_nil, List.not_mem_nil, false_and, if_false, each_id]
    cases s.window v <;> rfl
  | w :: l, s => by
    rw [List.foldl_cons, purgeWindows_window v l, purgeWindow_window]
    refine (map_each_each _ _ _ fun _ _ => rfl).trans (congrArg (fun f => (s.window v).map f) (funext fun e => congrArg e.each
      (funext fun i => funext fun x => (purged_or x).trans (if_congr ?_ rfl rfl))))
    rw [List.mem_cons]
    tauto

theorem purgeWindow_purging (s : State) (w : WindowIndex) : Purging s (s.purgeWindow w) := by
  unfold State.purgeWindow
  split
  · exact purging_refl s
  · exact purging_foldl (fun t p => (purgeParcel_eq w t p).1) _ s

/-- What a purge leaves of the parcel records. -/
theorem purged_undeferred (hw : ∀ v, t.window v = (s.window v).map fun e =>
      e.each fun i x => if v ∈ windowIds ∧ i < e.count then x.purged else x) :
    (t.undeferred l).windows = s.purgedWindows l := by
  have hmem : ∀ v : WindowIndex, v ∈ windowIds := by decide
  refine windows_eq fun v => ?_
  rw [undeferred_window, hw]
  refine (map_each_each _ _ _ fun _ _ => rfl).trans (congrArg (fun f => (s.window v).map f)
    (funext fun e => congrArg e.each (funext fun i => funext fun x => ?_)))
  have hpurged : (if v ∈ windowIds ∧ i < e.count then x.purged else x) =
      if i < e.count ∧ x.slot.isSome = true then ParcelRecord.blank else x := by
    unfold ParcelRecord.purged
    by_cases hi : i < e.count <;> simp [hmem, hi]
  rw [hpurged]

end Parcels

/-! ### Every slot becomes EMPTY (R97) -/

section Slots

variable {s : State}

theorem foldl_blank_slot (j : SlotId) : ∀ (l : List SlotId) (s : State),
    (l.foldl (fun t i => t.updateSlot i fun _ => KeySlot.blank) s).slot j =
      if j ∈ l ∧ j ≠ 0 then KeySlot.blank else s.slot j
  | [], s => by simp
  | i :: l, s => by
    rw [List.foldl_cons, foldl_blank_slot j l, slot_updateSlot]
    simp only [List.mem_cons]
    by_cases hj : j = 0
    · subst hj
      simp only [ne_eq, not_true_eq_false, and_false, if_false]
      refine if_neg fun h => h.2 h.1.symm
    · by_cases hi : j = i
      · simp [← hi, hj]
      · simp [hi]

theorem foldl_blank_only : ∀ (l : List SlotId) (s : State),
    SlotsOnly s (l.foldl (fun t i => t.updateSlot i fun _ => KeySlot.blank) s)
  | [], _ => ⟨rfl, rfl⟩
  | i :: l, s => (updateSlot_only s i _).trans (foldl_blank_only l _)

/-- The key table of a part whose generations are all gone. -/
def KeyTable.emptied (k : KeyTable) : KeyTable :=
  { k with
    slots := Vector.replicate 16 KeySlot.blank,
    contexts := k.contexts.map fun row => { row with holdLine := true } }

theorem foldl_hold_eq : ∀ (l : List Ctx) (s : State),
    l.foldl (fun t c => t.updateContext c fun r => { r with holdLine := true }) s =
      { s with keys := { s.keys with contexts := Vector.ofFn fun c =>
        if c ∈ l then { s.context c with holdLine := true } else s.context c } }
  | [], s => by
    have hcontexts : s.keys.contexts = Vector.ofFn fun c => s.context c :=
      Vector.ext fun k hk => by rw [Vector.getElem_ofFn]; rfl
    simp only [List.foldl_nil, List.not_mem_nil, if_false, ← hcontexts]
  | c :: l, s => by
    have hcontext : ∀ d, (s.updateContext c fun r => { r with holdLine := true }).context d =
        if d = c then { s.context c with holdLine := true } else s.context d := fun d => by
      by_cases hd : d = c
      · rw [if_pos hd, hd]
        exact Vector.getElem_set_self _
      · rw [if_neg hd]
        exact Vector.getElem_set_ne c.isLt d.isLt fun x => hd (Fin.ext x).symm
    have hrows : (fun d => if d ∈ l then
          { (s.updateContext c fun r => { r with holdLine := true }).context d with holdLine := true }
          else (s.updateContext c fun r => { r with holdLine := true }).context d) =
        fun d => if d ∈ c :: l then { s.context d with holdLine := true } else s.context d := by
      funext d
      rw [hcontext]
      simp only [List.mem_cons]
      by_cases hd : d = c
      · by_cases hl : d ∈ l <;> simp [hd]
      · simp [hd]
    rw [List.foldl_cons, foldl_hold_eq l, hrows]
    rfl

theorem emptyAllSlots_eq (h : NullSlotBlank s) :
    s.emptyAllSlots = { s with keys := s.keys.emptied } := by
  have hslots : usableSlots.foldl (fun t i => t.updateSlot i fun _ => KeySlot.blank) s =
      { s with keys := { s.keys with slots := Vector.replicate 16 KeySlot.blank } } := by
    rw [slotsOnly_eq (g := fun _ => KeySlot.blank) (foldl_blank_only usableSlots s) fun j => ?_]
    · have hblank : (Vector.ofFn fun _ : SlotId => KeySlot.blank) = Vector.replicate 16 KeySlot.blank :=
        Vector.ext fun k hk => by rw [Vector.getElem_ofFn, Vector.getElem_replicate]
      rw [hblank]
    · rw [foldl_blank_slot]
      by_cases hj : j = 0
      · rw [hj, if_neg fun x => x.2 rfl]
        exact h
      · exact if_pos ⟨mem_usableSlots.mpr hj, hj⟩
  have hmem : ∀ c : Ctx, c ∈ contextIds := by decide
  have hrows : ∀ t : State, (Vector.ofFn fun c => if c ∈ contextIds then
      { t.context c with holdLine := true } else t.context c) =
      t.keys.contexts.map fun row => { row with holdLine := true } := fun t =>
    Vector.ext fun k hk => by
      rw [Vector.getElem_ofFn, Vector.getElem_map, if_pos (hmem _)]
      rfl
  unfold State.emptyAllSlots
  dsimp only
  rw [hslots, foldl_hold_eq, hrows]
  rfl

theorem emptied_slot (k : KeyTable) (h : s.keys = k.emptied) (i : SlotId) :
    s.slot i = KeySlot.blank := by
  unfold State.slot
  rw [h]
  exact Vector.getElem_replicate _

/-- With no generation in service no notice is called for. -/
theorem noNotice_blank (h : ∀ i, s.slot i = KeySlot.blank) (events : List FaultEvent) :
    NoNotice s events := by
  intro k _
  show (takeAll s (events.take k)).noticeCalled = false
  have hslot : ∀ i, (takeAll s (events.take k)).slot i = KeySlot.blank := fun i => by
    rw [← h i, takeAll_eq]
    rfl
  generalize takeAll s (events.take k) = t at hslot
  have hactive : ∀ c, t.activeSlot c = none := fun c =>
    activeSlot_none fun j _ _ hj => by rw [hslot] at hj; cases hj
  have hcarries : ∀ c, t.carriesNotice c = false := fun c => by
    rw [State.carriesNotice, State.usableSlot, hactive]
    rfl
  have hchoose : ∀ c, t.chooseContext c = none := fun c => by
    unfold State.chooseContext
    rw [hcarries, if_neg (by decide)]
    split
    · rfl
    · rw [hcarries, if_neg (by decide)]
  unfold State.noticeCalled
  cases t.noticeWindow with
  | none => exact Bool.and_false _
  | some w =>
    dsimp only
    cases t.window w with
    | none => exact Bool.and_false _
    | some e => simp [hchoose]

end Slots

/-! ### Jobs and the notice (R75, R155) -/

section Jobs

variable {s : State}

theorem isSeal_seals (k : JobKind) : k.isSeal = k.seals := by
  cases k <;> rfl

theorem purgeEnds_eq (j : Job) :
    s.purgeEnds j =
      (j.kind.seals || (s.parcel j.window j.parcel).any fun q => q.slot.isSome) := by
  unfold State.purgeEnds
  rw [isSeal_seals]
  cases s.parcel j.window j.parcel with
  | none => exact (Bool.or_false _).symm
  | some q => rfl

/-- Does a purge end the running job? -/
def State.purgeStops (s : State) : Bool :=
  s.tag.running.any fun run => run.job.kind.seals ||
    (s.parcel run.job.window run.job.parcel).any fun q => q.slot.isSome

/-- Does no job run once a purge has ended those it ends? -/
def State.purgeIdle (s : State) : Bool :=
  s.purgeStops || s.tag.running.isNone

/-- The tag engine once a purge has ended its jobs, before entries are given. -/
def State.purgedTag (s : State) : TagEngine :=
  { s.tag with
    queue := s.tag.queue.filter fun j => !j.kind.seals, waitingSeal := none,
    running := if s.purgeIdle = true then none else s.tag.running }

theorem purgeJobs_eq :
    s.purgeJobs =
      { (if s.purgeStops = true then s.discard tagPurpose else s) with tag := s.purgedTag } := by
  unfold State.purgeJobs State.purgedTag State.purgeIdle
  simp only [isSeal_seals]
  cases hr : s.tag.running with
  | none =>
    have hstops : s.purgeStops = false := by rw [State.purgeStops, hr]; rfl
    rw [hstops]
    rfl
  | some run =>
    have hends : s.purgeEnds run.job = s.purgeStops := by
      rw [purgeEnds_eq, State.purgeStops, hr]
      rfl
    dsimp only
    rw [hends]
    cases s.purgeStops <;> rfl

theorem purgeNotice_eq (s : State) : s.purgeNotice = s.noticeDropped := by
  unfold State.purgeNotice State.noticeDropped State.noticeFailed
  cases hn : s.composer.notice with
  | none => rfl
  | some n =>
    dsimp only
    rw [setGather_gatherBy, markOffice_marked]
    rfl

end Jobs

/-! ### What a purge leaves (R97) -/

section Purge

variable {s u : State} {events : List FaultEvent} {x : Bool}

/-- How many entries are given, the one that the head of the queue frees included. -/
def State.entries (u : State) : Nat :=
  (if u.tag.running.isNone = true then 17 else 16) - u.tag.queue.length

/-- The job that starts: the head of the queue, when none runs. -/
def State.firstJob (u : State) : Option Job :=
  if u.tag.running.isNone = true then (u.given u.entries).tag.queue.head? else none

/-- What a check that starts issues. -/
def State.firstReads (u : State) : Option Job → List InternalRequest
  | none => []
  | some j => match u.window j.window with
    | none => []
    | some e => j.reads e ParcelRecord.blank

/-- u once its entries are given and the head of its queue has started. -/
def State.entered (u : State) : State :=
  { u.given u.entries with tag :=
      { (u.given u.entries).tag with
        queue := if u.tag.running.isNone = true then (u.given u.entries).tag.queue.tail
          else (u.given u.entries).tag.queue,
        running := if u.tag.running.isNone = true then
            u.firstJob.map fun j => j.started ParcelRecord.blank
          else u.tag.running } }

theorem tagSettle_unsealed (h : Unsealed u)
    (hp : ∀ j ∈ u.firstJob, (u.parcel j.window j.parcel).isSome = true) :
    u.tagSettle = u.entered.wantAll (u.firstReads u.firstJob) := by
  unfold State.entered
  unfold State.firstJob at hp ⊢
  unfold State.entries at hp ⊢
  cases hr : u.tag.running with
  | some run =>
    rw [tagSettle_gives h.2 (by simp [hr])]
    simp only [Option.isNone_some, Bool.false_eq_true, if_false, State.firstReads, wantAll_nil]
    rw [← hr]
    rfl
  | none =>
    simp only [hr, Option.isNone_none, if_true] at hp ⊢
    cases hq : (u.given (17 - u.tag.queue.length)).tag.queue with
    | nil =>
      rw [tagSettle_idle h.2 hq]
      simp only [List.head?_nil, Option.map_none, State.firstReads, wantAll_nil, List.tail_nil]
      rw [← hq, ← hr]
      rfl
    | cons j js =>
      rw [hq] at hp
      have hparcel := hp j rfl
      have hkind : j.kind.seals = false :=
        (unsealed_given h (17 - u.tag.queue.length)).1 j (hq ▸ List.mem_cons_self)
      obtain ⟨e, he⟩ : ∃ e, u.window j.window = some e := by
        unfold State.parcel at hparcel
        cases he : u.window j.window with
        | none => rw [he] at hparcel; cases hparcel
        | some e => exact ⟨e, rfl⟩
      rw [tagSettle_next h.2 hr hq he hparcel hkind]
      simp only [List.head?_cons, Option.map_some, List.tail_cons, State.firstReads, he]
      rfl

theorem handing_entered (u : State) (events : List FaultEvent) (x : Bool) :
    (u.handing events x).entered = u.entered.handing events x := rfl

theorem handing_firstJob (u : State) (events : List FaultEvent) (x : Bool) :
    (u.handing events x).firstJob = u.firstJob := rfl

/-- The windows of a purge before entries are given. -/
def State.purgedParcels (s : State) : Vector (Option Window) 8 :=
  Vector.ofFn fun v => (s.window v).map fun e =>
    e.each fun i x => if v ∈ windowIds ∧ i < e.count then x.purged else x

/-- s once a purge has emptied its slots, before entries are given. -/
def State.afterPurge (s : State) : State :=
  { (if s.purgeStops = true then s.discard tagPurpose else s).noticeDropped with
    windows := s.purgedParcels, tag := s.purgedTag, keys := s.keys.emptied }

theorem noticeDropped_with (s : State) (t : TagEngine) (c : CommandUnit) :
    State.noticeDropped { s with tag := t, command := c } =
      { s.noticeDropped with tag := t, command := c } := by
  unfold State.noticeDropped
  dsimp only
  cases s.composer.notice <;> rfl

theorem noticeDropped_frame (s : State) :
    s.noticeDropped = { s with
      path := s.noticeDropped.path, fault := s.noticeDropped.fault,
      composer := s.noticeDropped.composer } := by
  unfold State.noticeDropped
  cases s.composer.notice <;> rfl

theorem purge_eq (hs : Settled s) (h0 : NullSlotBlank s) :
    ∃ x, s.purge = (s.afterPurge.handing [purgedEvent s.slotsHeld] x).tagSettle := by
  have hpurge : s.purge = (((windowIds.foldl State.purgeWindow
      s.purgeJobs.purgeNotice).emptyAllSlots).raise (purgedEvent s.slotsHeld)).tagSettle := rfl
  set d := if s.purgeStops = true then s.discard tagPurpose else s with hd
  have hdropped : s.purgeJobs.purgeNotice = { d.noticeDropped with tag := s.purgedTag } := by
    rw [purgeJobs_eq, purgeNotice_eq, ← hd]
    exact noticeDropped_with d s.purgedTag d.command |>.trans (by
      rw [noticeDropped_frame d])
  have hframe : ∀ t : State, t = d → t.windows = s.windows ∧ t.keys = s.keys ∧
      t.transit = s.transit := by
    rintro t rfl
    rw [hd]
    split <;> exact ⟨rfl, rfl, rfl⟩
  obtain ⟨hwindows, hkeys, htransit⟩ := hframe d rfl
  have hafter : s.afterPurge = { d.noticeDropped with
      windows := s.purgedParcels, tag := s.purgedTag, keys := s.keys.emptied } := by
    rw [State.afterPurge, ← hd]
  rw [hdropped] at hpurge
  clear_value d
  generalize hv : ({ d.noticeDropped with tag := s.purgedTag } : State) = v at hpurge
  have hvw : v.windows = s.windows := by rw [← hv, noticeDropped_frame]; exact hwindows
  have hvk : v.keys = s.keys := by rw [← hv, noticeDropped_frame]; exact hkeys
  have hvt : v.transit = s.transit := by rw [← hv, noticeDropped_frame]; exact htransit
  have hpurging : Purging v (windowIds.foldl State.purgeWindow v) :=
    purging_foldl purgeWindow_purging windowIds v
  have hparcels : (windowIds.foldl State.purgeWindow v).windows = s.purgedParcels :=
    windows_eq fun w => by
      rw [purgeWindows_window, State.window, hvw]
      rfl
  generalize windowIds.foldl State.purgeWindow v = t at hpurging hparcels hpurge
  obtain ⟨ht, hnull⟩ := hpurging
  have hvnull : v.slot 0 = KeySlot.blank := by
    rw [← h0, State.slot, hvk]
    rfl
  have hemptied : t.keys.emptied = s.keys.emptied := by
    rw [ht, ← hvk]
    rfl
  have hbefore : ({ t with keys := t.keys.emptied } : State) =
      { s.afterPurge with transit := { reports := [], examine := t.transit.examine } } := by
    rw [hemptied, ht, hafter, ← hparcels, ← hv]
    have hreports : d.noticeDropped.transit.reports = [] := by
      rw [noticeDropped_frame]
      exact (congrArg Transit.reports htransit).trans (congrArg Transit.reports hs)
    rw [← hreports]
  refine ⟨t.transit.examine, ?_⟩
  rw [hpurge, emptyAllSlots_eq (hnull.trans hvnull), hbefore]
  rfl

theorem purgedTag_idle (s : State) : s.purgedTag.running.isNone = s.purgeIdle := by
  unfold State.purgedTag
  cases hi : s.purgeIdle with
  | true => rfl
  | false =>
    unfold State.purgeIdle at hi
    exact (Bool.or_eq_false_iff.mp hi).2

theorem afterPurge_command (s : State) (c : CommandUnit) :
    State.afterPurge { s with command := c } = { s.afterPurge with command := c } := by
  have hdrop : ∀ t : State, State.noticeDropped { t with command := c } =
      { t.noticeDropped with command := c } := fun t => by
    unfold State.noticeDropped
    dsimp only
    cases t.composer.notice <;> rfl
  have hstops : State.purgeStops { s with command := c } = s.purgeStops := rfl
  unfold State.afterPurge
  rw [hstops]
  cases s.purgeStops with
  | true =>
    have h := hdrop (s.discard tagPurpose)
    rw [if_pos rfl, if_pos rfl, State.discard]
    rw [State.discard] at h
    rw [h]
    rfl
  | false =>
    rw [if_neg Bool.false_ne_true, if_neg Bool.false_ne_true, hdrop]
    rfl

theorem unsealed_afterPurge (s : State) : Unsealed s.afterPurge :=
  ⟨fun j hj => by simpa using (List.mem_filter.mp hj).2, rfl⟩

theorem afterPurge_window (s : State) (v : WindowIndex) :
    s.afterPurge.window v = (s.window v).map fun e =>
      e.each fun i x => if v ∈ windowIds ∧ i < e.count then x.purged else x :=
  Vector.getElem_ofFn _

theorem afterPurge_nextSerial (s : State) : s.afterPurge.path.nextSerial = s.path.nextSerial := by
  have hdrop : ∀ t : State, t.noticeDropped.path.nextSerial = t.path.nextSerial := fun t => by
    unfold State.noticeDropped
    cases t.composer.notice <;> rfl
  show (State.noticeDropped _).path.nextSerial = _
  rw [hdrop]
  split <;> rfl

theorem afterPurge_mode (s : State) : s.afterPurge.mode = s.mode := by
  show (State.noticeDropped _).mode = _
  rw [noticeDropped_frame]
  split <;> rfl

theorem afterPurge_deferredJob (s : State) (w : WindowIndex) (p : Nat) :
    s.afterPurge.deferredJob w p = s.deferredJob w p := by
  have hrole : (s.afterPurge.window w).any (fun e => decide (e.role = .renewal)) =
      (s.window w).any fun e => decide (e.role = .renewal) := by
    rw [afterPurge_window, Option.any_map]
    rfl
  unfold State.deferredJob
  rw [hrole, afterPurge_nextSerial]

theorem afterPurge_parcel {w : WindowIndex} {p : Nat} (h : (s.parcel w p).isSome = true) :
    (s.afterPurge.parcel w p).isSome = true := by
  unfold State.parcel at h ⊢
  rw [afterPurge_window]
  cases he : s.window w with
  | none => rw [he] at h; cases h
  | some e =>
    rw [he] at h
    simpa [Window.each] using h

theorem reads_base (j : Job) {e e' : Window} (h : e'.base = e.base) (q : ParcelRecord) :
    j.reads e' q = j.reads e q := by
  obtain ⟨w, p, kind, o⟩ := j
  cases kind <;> simp only [Job.reads, headRead, lineReads, h]

theorem afterPurge_firstReads (s : State) (first : Option Job) :
    s.afterPurge.firstReads first = s.firstReads first := by
  cases first with
  | none => rfl
  | some j =>
    unfold State.firstReads
    dsimp only
    rw [afterPurge_window]
    cases s.window j.window with
    | none => rfl
    | some e => exact reads_base j rfl _

/-- The queue of a purge once its entries are given. -/
theorem afterPurge_queue (s : State) (k : Nat) :
    (s.afterPurge.given k).tag.queue =
      (s.tag.queue.filter fun j => !j.kind.seals) ++
        (s.tag.deferred.take k).map fun d => s.deferredJob d.1 d.2 := by
  show s.purgedTag.queue ++ s.afterPurge.givenJobs k = _
  unfold State.givenJobs
  simp only [afterPurge_deferredJob]
  rfl

theorem afterPurge_windows (s : State) (k : Nat) :
    (s.afterPurge.given k).windows = s.purgedWindows (s.tag.deferred.take k) := by
  have hgiven : ∀ u : State, (u.given k).windows = (u.undeferred (u.tag.deferred.take k)).windows :=
    fun _ => rfl
  have hdeferred : s.afterPurge.tag.deferred = s.tag.deferred := rfl
  rw [hgiven, hdeferred]
  exact purged_undeferred (afterPurge_window s)

/-- The end of a command whose effect has issued requests. -/
theorem wantAll_finishCommand (t : State) (l : List InternalRequest) (status : Status) (n : Nat) :
    (t.wantAll l).finishCommand status n =
      State.wantAll { t with command := t.command.answered status n }
        (l ++ [(t.wantAll l).resultWrite t.command.ticket status n]) := by
  unfold State.wantAll
  rw [← List.append_assoc]
  rfl

/-- A step that ends in a state without generations keeps its slots and its tag engine. -/
theorem finish_blank {e : FaultEvent} (hm : s.mode = .running) (hk : ∀ i, s.slot i = KeySlot.blank)
    (ht : s.transit.reports = [.event e]) :
    (∀ i, s.finish.slot i = KeySlot.blank) ∧ s.finish.tag = s.tag := by
  have hends : EndsAs { s with transit := Transit.empty } s.finish [] [e] := by
    refine finish_of hm ?_
    rw [List.append_nil]
    show s = { s with transit := { reports := [.event e], examine := s.transit.examine } }
    rw [← ht]
  obtain ⟨hfinish, -⟩ := hends (noNotice_blank (s := { s with transit := Transit.empty }) hk _)
  rw [hfinish]
  exact ⟨hk, rfl⟩

end Purge

/-- Settles O44. -/
theorem purgeEmptiesSlots : Obligations.PurgeEmptiesSlots := by
  intro s ticket hs hphase h0 n ends idle jobs room given waiting first b
  set c : CommandUnit := { s.command with code := 11, ticket := ticket.toNat, arguments := [] }
    with hc
  have hexec : exec (.purge ticket) s = .next ((State.finishCommand
      (State.purge { s with command := c }) .done s.slotsHeld).finish) := by
    show Host.Outcome.next (s.takeCommand 11 ticket.toNat).finish = _
    rw [takeCommand_purge ⟨hs.1, hphase⟩]
    rfl
  obtain ⟨x, hx⟩ := purge_eq (s := { s with command := c }) hs.2 h0
  rw [afterPurge_command] at hx
  set u : State := { s.afterPurge with command := c } with hu
  have hunsealed : Unsealed u := unsealed_afterPurge s
  have humode : u.mode = .running := (afterPurge_mode s).trans hs.1
  refine ⟨fun hfirst => ⟨_, hexec, ?_⟩, _, hexec, ?_⟩
  · have hidle : u.tag.running.isNone = idle := purgedTag_idle s
    have hentries : u.entries = room := by
      rw [State.entries, hidle]
      rfl
    have hgiven : (u.given room).tag.queue = waiting := afterPurge_queue s room
    have hjob : u.firstJob = first := by
      rw [State.firstJob, hidle, hentries, hgiven]
    have hfirst' : ∀ j ∈ u.firstJob, (u.parcel j.window j.parcel).isSome = true := fun j hj => by
      rw [hjob] at hj
      exact afterPurge_parcel (hfirst j hj)
    have hreads : u.firstReads u.firstJob = s.firstReads first := by
      rw [hjob]
      exact afterPurge_firstReads s first
    have hsettle : (u.handing [purgedEvent s.slotsHeld] x).tagSettle =
        (u.entered.wantAll (s.firstReads first)).handing [purgedEvent s.slotsHeld] x := by
      rw [tagSettle_unsealed (u := u.handing _ x) hunsealed hfirst', handing_entered,
        handing_firstJob]
      show (u.entered.wantAll (u.firstReads u.firstJob)).handing _ _ = _
      rw [hreads]
    have hentered : u.entered = { u with
        windows := s.purgedWindows given,
        tag :=
          { queue := if idle then waiting.tail else waiting,
            running := if idle then first.map fun j => j.started ParcelRecord.blank
              else u.tag.running,
            deferred := s.tag.deferred.drop room, waitingSeal := none } } := by
      rw [← afterPurge_windows s room, State.entered, hidle, hentries, hgiven, hjob]
      rfl
    have hrunning : (if idle then first.map fun j => j.started ParcelRecord.blank
        else u.tag.running) =
        if idle then first.map fun j => j.started ParcelRecord.blank else s.tag.running := by
      have hfalse : idle = false → u.tag.running = s.tag.running := fun hi => by
        show (if idle = true then none else s.tag.running) = _
        rw [hi]
        rfl
      cases hi : idle with
      | true => rfl
      | false => exact hfalse hi
    have hserial : u.entered.path.nextSerial = s.path.nextSerial := by
      rw [hentered]
      exact afterPurge_nextSerial s
    have hcommand : u.entered.command = c := by rw [hentered]
    have hresult : (u.entered.wantAll (s.firstReads first)).resultWrite ticket.toNat .done n =
        s.resultWrite ticket.toNat .done n := by
      unfold State.resultWrite
      show ({ orderPoint := u.entered.path.nextSerial, .. } : InternalRequest) = _
      rw [hserial]
    have hbefore : State.finishCommand ((u.entered.wantAll (s.firstReads first)).handing
        [purgedEvent n] x) .done n =
        ((u.entered.wantAll (s.firstReads first)).finishCommand .done n).handing [purgedEvent n] x :=
      rfl
    rw [hx, show State.slotsHeld { s with command := c } = n from rfl]
    have hsettle' : (u.handing [purgedEvent n] x).tagSettle =
      (u.entered.wantAll (s.firstReads first)).handing [purgedEvent n] x := hsettle
    rw [hsettle', show s.slotsHeld = n from rfl, hbefore, wantAll_finishCommand, hcommand, hresult,
      hentered, hrunning]
    exact finish_wanting humode
  · obtain ⟨hkeys, htransit, hmode⟩ := tagSettle_keeps (s := u.handing [purgedEvent s.slotsHeld] x)
      hunsealed
    obtain ⟨hjobs, hwaiting⟩ := unsealed_tagSettle (s := u.handing [purgedEvent s.slotsHeld] x)
      hunsealed
    rw [hx, show State.slotsHeld { s with command := c } = s.slotsHeld from rfl]
    generalize (u.handing [purgedEvent s.slotsHeld] x).tagSettle = y at *
    obtain ⟨hslots, htag⟩ := finish_blank (s := y.finishCommand .done s.slotsHeld)
      (e := purgedEvent s.slotsHeld) (hmode.trans humode)
      (fun i => emptied_slot (s := y.finishCommand .done s.slotsHeld) s.keys hkeys i)
      ((congrArg Transit.reports htransit).trans (by simp [State.handing]))
    refine ⟨hslots, fun j hj => ?_, ?_⟩
    · rw [htag] at hj
      have hkind := hjobs j hj
      unfold JobKind.seals at hkind
      simpa using hkind
    · rw [htag]
      exact hwaiting

end Sys2Proof.Machine
end

section
/-! PROOFS. The opening of a parcel, and what follows it in the key table (R7, R87, R88). -/

namespace Sys2Proof.Machine

/-! ### A second evaluation of renewal due -/

section Renewal

variable {s : State} {c d : Ctx} {h : SlotId} {changes : List (Ctx × SlotId)}

/-- Renewal due has been evaluated for context c. -/
def RenewalSettled (s : State) (c : Ctx) : Prop :=
  ∀ a, s.activeSlot c = some a → s.renewalIsDue c a = false

theorem evaluateRenewalDue_settled (h : RenewalSettled s c) : s.evaluateRenewalDue c = s := by
  cases ha : s.activeSlot c with
  | none => rw [State.evaluateRenewalDue, ha]
  | some a => rw [evaluateRenewalDue_active ha, if_neg (by rw [h a ha]; decide)]

theorem renewalIsDue_evaluateHold (s : State) (c : Ctx) (a : SlotId) :
    (s.evaluateHold c).renewalIsDue c a = s.renewalIsDue c a := by
  have hsettings : ((s.evaluateHold c).context c).settings = (s.context c).settings := by
    rw [evaluateHold_eq, context_updateContext]
  unfold State.renewalIsDue
  rw [hsettings]
  rfl

theorem renewalIsDue_raised {a : SlotId} (h : (s.slot a).renewalDueRaised = true) :
    s.renewalIsDue c a = false := by
  unfold State.renewalIsDue
  dsimp only
  rw [h]
  rfl

theorem changedOver_renewalSettled (h1 : OneEach s) (hh : s.stagedHead c = some h) :
    RenewalSettled (s.changedOver c h) c := by
  intro a ha
  obtain rfl : h = a := Option.some.inj ((changedOver_activeSlot h1 hh).symm.trans ha)
  cases hd : s.dueAtActivation c h with
  | true =>
    refine renewalIsDue_raised ?_
    rw [changedOver_slot, changedSlot_head, hd]
    exact Bool.or_true _
  | false =>
    rw [← reslotted_evaluateHold h1 hh, renewalIsDue_evaluateHold, ← stepped_notDue hd,
      stepped_renewalIsDue, hd]

theorem changedOver_renewalSettled_other (hh : s.stagedHead d = some h) (hcd : c ≠ d)
    (hs : RenewalSettled s c) : RenewalSettled (s.changedOver d h) c := by
  intro a ha
  rw [changedOver_activeSlot_other hh hcd] at ha
  have hcontext : (s.changedOver d h).context c = s.context c :=
    Vector.getElem_set_ne d.isLt c.isLt fun x => hcd (Fin.ext x).symm
  have hslot : (s.changedOver d h).slot a = s.slot a := by
    rw [changedOver_slot, changedSlot_otherContext hh]
    rw [(activeSlot_mem ha).2.1]
    exact hcd
  rw [State.renewalIsDue, hcontext, hslot, changedOver_staged_other hh hcd]
  exact hs a ha

/-- Changeovers that follow from one of context c leave c evaluated. -/
theorem cascades_evaluated (h1 : OneEach s) (hc : Cascades s c changes) :
    HoldSettled (s.changedAll changes) c ∧ RenewalSettled (s.changedAll changes) c := by
  obtain ⟨h, hh, hcase⟩ := hc
  rcases hcase with ⟨rfl, -⟩ | ⟨-, j, hj, -, hstaged, rfl⟩
  · exact ⟨changedAll_holdSettled h1 hh,
      changedAll_group changedOver_renewalSettled_other hh (changedOver_renewalSettled h1 hh)⟩
  · have hhead : (s.changedOver c h).stagedHead c = some j :=
      stagedHead_single fun k => by
        rw [changedOver_staged_mem, hstaged]
        exact ⟨fun x => x.2.resolve_left x.1, fun x => ⟨x ▸ hj, .inr x⟩⟩
    have hone := changedOver_one h1 hh
    exact ⟨changedOver_holdSettled hone hhead, changedOver_renewalSettled hone hhead⟩

end Renewal

/-! ### A generation that a parcel names keeps its key -/

section Keyed

variable {s : State} {i : SlotId}

/-- Slots with one key under one name, and as many references. -/
def KeySlot.Keyed (k k' : KeySlot) : Prop :=
  k'.trafficKey = k.trafficKey ∧ k'.context = k.context ∧ k'.generation = k.generation ∧
    k'.references = k.references

theorem changedSlot_keyed (hr : (s.slot i).references ≠ 0) (c : Ctx) (h : SlotId) :
    (s.slot i).Keyed (s.changedSlot c h i) := by
  by_cases hi : i = h
  · rw [hi, changedSlot_head]
    exact ⟨rfl, rfl, rfl, rfl⟩
  by_cases ha : s.activeSlot c = some i
  · rw [changedSlot_active hi ha]
    exact ⟨rfl, rfl, rfl, rfl⟩
  by_cases hd : s.drainingSlot c = some i
  · rw [changedSlot_draining hi ha hd, KeySlot.leaveService, if_neg hr]
    exact ⟨rfl, rfl, rfl, rfl⟩
  · rw [changedSlot_other hi ha hd]
    exact ⟨rfl, rfl, rfl, rfl⟩

theorem changedAll_keyed : ∀ (l : List (Ctx × SlotId)) {s : State}, (s.slot i).references ≠ 0 →
    (s.slot i).Keyed ((s.changedAll l).slot i)
  | [], _, _ => ⟨rfl, rfl, rfl, rfl⟩
  | m :: l, s, hr => by
    have hfirst := changedSlot_keyed hr m.1 m.2
    rw [← changedOver_slot] at hfirst
    rw [State.changedAll]
    obtain ⟨h1, h2, h3, h4⟩ := hfirst
    obtain ⟨k1, k2, k3, k4⟩ := changedAll_keyed l (s := s.changedOver m.1 m.2) (by rwa [h4])
    exact ⟨k1.trans h1, k2.trans h2, k3.trans h3, k4.trans h4⟩

end Keyed

/-! ### An open that leaves its slot ACTIVE (R87) -/

section Stays

variable {s : State} {w : WindowIndex} {p : Nat} {c : Ctx} {i : SlotId} {owner : Owner}

theorem opened_slot (s : State) (w : WindowIndex) (p : Nat) (i j : SlotId) (owner : Owner) :
    (s.opened w p i owner).slot j = if j = i then (s.slot i).opened else s.slot j := by
  by_cases hj : j = i
  · rw [if_pos hj, hj]
    exact Vector.getElem_set_self _
  · rw [if_neg hj]
    exact Vector.getElem_set_ne i.isLt j.isLt fun x => hj (Fin.ext x).symm

/-- An open changes windows and key table. -/
theorem opened_frame (s : State) (w : WindowIndex) (p : Nat) (i : SlotId) (owner : Owner) :
    s.opened w p i owner =
      { s with windows := (s.opened w p i owner).windows,
               keys := { s.keys with slots := s.keys.slots.set i (s.slot i).opened } } := by
  rw [State.opened, updateParcel_windows]

theorem opened_settled (hs : Settled s) : Settled (s.opened w p i owner) := by
  rw [opened_frame]
  exact hs

/-- An open leaves a slot alike for the staged lists and the groups. -/
theorem opened_alike (s : State) (w : WindowIndex) (p : Nat) (i j : SlotId) (owner : Owner) :
    (s.slot j).Alike ((s.opened w p i owner).slot j) := by
  rw [opened_slot]
  by_cases hj : j = i
  · rw [if_pos hj, hj]
    exact ⟨⟨rfl, rfl⟩, rfl, rfl⟩
  · rw [if_neg hj]
    exact ⟨⟨rfl, rfl⟩, rfl, rfl⟩

theorem opened_activeSlot (s : State) (w : WindowIndex) (p : Nat) (i : SlotId) (owner : Owner)
    (c : Ctx) : (s.opened w p i owner).activeSlot c = s.activeSlot c :=
  activeSlot_congr c fun j => (opened_alike s w p i j owner).1

theorem opened_renewalIsDue (ha : (s.slot i).state = .active) :
    (s.opened w p i owner).renewalIsDue c i = s.dueByOpen c i := by
  have hstaged : (s.opened w p i owner).slotsIn c .staged = s.slotsIn c .staged :=
    slotsIn_congr c .staged fun j => (opened_alike s w p i j owner).1
  have hactive : (s.slot i).opened.state = .active := ha
  unfold State.renewalIsDue State.dueByOpen
  rw [hstaged, opened_slot, if_pos rfl]
  dsimp only
  rw [hactive, decide_eq_true rfl, Bool.and_true]
  rfl

/-- s once slot i has opened a parcel and renewal due is evaluated, before the hold line is. -/
def State.openedDue (s : State) (w : WindowIndex) (p : Nat) (c : Ctx) (i : SlotId)
    (owner : Owner) : State :=
  { s.opened w p i owner with keys := { s.keys with
      slots := s.keys.slots.set i
        { (s.slot i).opened with
          renewalDueRaised := (s.slot i).renewalDueRaised || s.dueByOpen c i } } }

theorem openedDue_slot (s : State) (w : WindowIndex) (p : Nat) (c : Ctx) (i : SlotId)
    (owner : Owner) : (s.openedDue w p c i owner).slot i =
      { (s.slot i).opened with
        renewalDueRaised := (s.slot i).renewalDueRaised || s.dueByOpen c i } :=
  Vector.getElem_set_self _

theorem openedDue_activeSlot (s : State) (w : WindowIndex) (p : Nat) (c d : Ctx) (i : SlotId)
    (owner : Owner) : (s.openedDue w p c i owner).activeSlot d = s.activeSlot d := by
  refine activeSlot_congr d fun j => ?_
  by_cases hj : j = i
  · rw [hj, openedDue_slot]
    exact ⟨rfl, rfl⟩
  · have hslot : (s.openedDue w p c i owner).slot j = s.slot j :=
      Vector.getElem_set_ne i.isLt j.isLt fun x => hj (Fin.ext x).symm
    rw [hslot]
    exact ⟨rfl, rfl⟩

theorem openedDue_due (hi : i ≠ 0) (hd : s.dueByOpen c i = true) :
    (s.opened w p i owner).updateSlot i (fun k => { k with renewalDueRaised := true }) =
      s.openedDue w p c i owner := by
  rw [updateSlot_eq hi, opened_slot, if_pos rfl, State.openedDue, hd, Bool.or_true]
  have hset : ∀ k : KeySlot, (s.opened w p i owner).keys.slots.set i k = s.keys.slots.set i k :=
    fun k => Vector.set_set ..
  rw [hset]
  rfl

theorem openedDue_notDue (hd : s.dueByOpen c i = false) :
    s.openedDue w p c i owner = s.opened w p i owner := by
  rw [State.openedDue, hd, Bool.or_false]
  rfl

theorem openedDue_evaluateHold (ha : s.activeSlot c = some i) :
    (s.openedDue w p c i owner).evaluateHold c = s.openedOn w p c i owner := by
  rw [evaluateHold_active ((openedDue_activeSlot s w p c c i owner).trans ha), openedDue_slot]
  rfl

theorem opened_handing_stays {events : List FaultEvent} (ha : s.activeSlot c = some i) :
    (((s.opened w p i owner).handing events false).evaluateRenewalDue c).evaluateHold c =
      (s.openedOn w p c i owner).handing (events ++
        if s.dueByOpen c i then
          [keyEvent .renewalDue c (s.slot i).generation
            ((s.slot i).budget - ((s.slot i).usage + 1)) (s.remainingTicks (s.slot i))]
        else []) false := by
  obtain ⟨hi, -, hstate⟩ := activeSlot_mem ha
  have hslot : ((s.opened w p i owner).handing events false).slot i = (s.slot i).opened :=
    (opened_slot s w p i i owner).trans (if_pos rfl)
  have hactive : ((s.opened w p i owner).handing events false).activeSlot c = some i :=
    (opened_activeSlot s w p i owner c).trans ha
  have hdue : ((s.opened w p i owner).handing events false).renewalIsDue c i = s.dueByOpen c i :=
    opened_renewalIsDue (w := w) (p := p) (owner := owner) hstate
  have hticks : ((s.opened w p i owner).handing events false).remainingTicks (s.slot i).opened =
      s.remainingTicks (s.slot i) := by
    rw [opened_frame]
    rfl
  rw [evaluateRenewalDue_active hactive, hdue, hslot, ← openedDue_evaluateHold ha]
  by_cases hd : s.dueByOpen c i = true
  · rw [if_pos hd, if_pos hd, handing_updateSlot, openedDue_due hi hd, handing_raise,
      handing_evaluateHold, hticks]
    rfl
  · rw [if_neg hd, if_neg hd, openedDue_notDue (by simpa using hd), handing_evaluateHold,
      List.append_nil]

end Stays

/-! ### An open, with what follows it (R7, R87, R88) -/

section Opening

variable {s o : State} {w : WindowIndex} {p : Nat} {c : Ctx} {i : SlotId} {owner : Owner}
  {events : List FaultEvent}

/-- An open by slot i, before the key table acts on it. -/
def State.issued (s : State) (w : WindowIndex) (p : Nat) (i : SlotId) (owner : Owner) : State :=
  { s.opened w p i owner with keys := { s.keys with
      slots := s.keys.slots.set i (s.slot i).open } }

theorem issued_slot (s : State) (w : WindowIndex) (p : Nat) (i : SlotId) (owner : Owner) :
    (s.issued w p i owner).slot i = (s.slot i).open :=
  Vector.getElem_set_self _

theorem opened_unexhausted (h : (s.slot i).usage + 1 ≠ (s.slot i).budget) :
    (s.slot i).opened = (s.slot i).open := by
  rw [KeySlot.opened, decide_eq_false h, Bool.or_false]
  rfl

/-- The open that makes the usage equal to the budget raises BUDGET_EXHAUSTED once (R88). -/
theorem exhaust_issued (hs : Settled s) (hi : i ≠ 0) :
    (s.issued w p i owner).exhaust c i =
      let t := (s.opened w p i owner).handing (s.exhaustEvents c i) false
      if (s.slot i).usage + 1 = (s.slot i).budget then t.changeover c else t := by
  have hquiet : s.opened w p i owner = (s.opened w p i owner).handing [] false :=
    settled_handing (opened_settled hs)
  rw [State.exhaust, issued_slot]
  dsimp only
  by_cases hb : (s.slot i).usage + 1 = (s.slot i).budget
  · refine (if_pos (show (s.slot i).open.usage = (s.slot i).open.budget from hb)).trans ?_
    rw [if_pos hb]
    refine congrArg (State.changeover · c) ?_
    cases hr : (s.slot i).budgetExhaustedRaised with
    | true =>
      have hslot : (s.slot i).open = (s.slot i).opened := by
        rw [KeySlot.opened, hr, Bool.true_or, ← hr]
        rfl
      have hevents : s.exhaustEvents c i = [] := if_neg (by simp [hr])
      rw [if_pos (show (s.slot i).open.budgetExhaustedRaised = true from hr), hevents, ← hquiet,
        State.issued, hslot]
      rfl
    | false =>
      have hslot : { (s.slot i).open with budgetExhaustedRaised := true } = (s.slot i).opened := by
        rw [KeySlot.opened, hr, decide_eq_true hb, Bool.false_or]
        rfl
      have hevents : s.exhaustEvents c i =
          [keyEvent .budgetExhausted c (s.slot i).generation 0 0] := if_pos ⟨hb, hr⟩
      have hset : ∀ k : KeySlot, (s.issued w p i owner).keys.slots.set i k =
          s.keys.slots.set i k := fun k => Vector.set_set ..
      rw [if_neg (show ¬(s.slot i).open.budgetExhaustedRaised = true by
        rw [show (s.slot i).open.budgetExhaustedRaised = _ from hr]; decide), hevents,
        updateSlot_eq hi, issued_slot, hslot, hset]
      exact raise_settled (s := s.opened w p i owner) (opened_settled hs) _
  · have hevents : s.exhaustEvents c i = [] := if_neg fun h => hb h.1
    refine (if_neg (show ¬(s.slot i).open.usage = (s.slot i).open.budget from hb)).trans ?_
    rw [if_neg hb, hevents, ← hquiet, State.issued, ← opened_unexhausted hb]
    rfl

theorem afterOpen_opens (hs : Settled s) (h : Opens s w p c i owner o events) :
    ∃ x, (s.issued w p i owner).afterOpen c i = o.handing events x := by
  obtain ⟨ha, -, hcase⟩ := h
  obtain ⟨hi, -, -⟩ := activeSlot_mem ha
  have halike := opened_alike s w p i
  rw [State.afterOpen, exhaust_issued hs hi]
  dsimp only
  rcases hcase with ⟨hstays, rfl, rfl⟩ | ⟨hb, h1, changes, hc, rfl, rfl⟩
  · refine ⟨false, ?_⟩
    rw [← opened_handing_stays ha]
    refine congrArg (fun t : State => (t.evaluateRenewalDue c).evaluateHold c) ?_
    rcases hstays with hb | ⟨hb, hn⟩
    · exact if_neg (by omega)
    · refine (if_pos hb).trans (changeover_nothing ?_)
      exact (stagedHead_alike (fun j => halike j owner) c).trans hn
  · have h1' : OneEach (s.opened w p i owner) := oneEach_alike h1 fun j => halike j owner
    have hc' : Cascades (s.opened w p i owner) c changes := by
      refine cascades_congr (fun j => halike j owner) rfl (fun j _ _ => ?_) hc
      rw [opened_slot]
      by_cases hj : j = i
      · rw [if_pos hj, hj]
        rfl
      · rw [if_neg hj]
    obtain ⟨hhold, hrenewal⟩ := cascades_evaluated h1' hc'
    rw [if_pos hb, changeover_handing h1' hc', evaluateRenewalDue_settled (by exact hrenewal),
      handing_evaluateHold, evaluateHold_settled hhold]
    exact ⟨_, rfl⟩

theorem opens_usable (h : Opens s w p c i owner o events) : s.usableSlot c = some i := by
  obtain ⟨ha, hn, hcase⟩ := h
  have hb : (s.slot i).usage < (s.slot i).budget := by
    rcases hcase with ⟨hb | ⟨hb, -⟩, -⟩ | ⟨hb, -⟩ <;> omega
  rw [State.usableSlot, ha]
  exact if_pos (by simp [KeySlot.usable, hb, hn])

/-- A parcel is opened. -/
theorem openParcel_opens (hs : Settled s) (h : Opens s w p c i owner o events) :
    ∃ x, s.openParcel w p c owner = some (o.handing events x) := by
  obtain ⟨hi, -, -⟩ := activeSlot_mem h.1
  obtain ⟨x, hx⟩ := afterOpen_opens hs h
  have hissued : (s.updateParcel w p fun r => { r with
      state := .filling, slot := some i, sequence := some (s.slot i).nextSequence,
      owner := some owner }).updateSlot i KeySlot.open = s.issued w p i owner := by
    rw [updateSlot_eq hi, State.issued, State.opened, updateParcel_windows]
    rfl
  refine ⟨x, ?_⟩
  rw [State.openParcel, opens_usable h]
  dsimp only
  rw [hissued, hx]

/-- What follows an open in the key table changes no more. -/
theorem opens_frame (h : Opens s w p c i owner o events) :
    o = { s with windows := (s.opened w p i owner).windows, keys := o.keys } := by
  obtain ⟨-, -, ⟨-, rfl, -⟩ | ⟨-, -, changes, -, rfl, -⟩⟩ := h
  · rw [State.openedOn, opened_frame]
  · rw [changedAll_frame, opened_frame]

/-- The generation that opened the parcel keeps its key. -/
theorem opens_keyed (h : Opens s w p c i owner o events) :
    (o.slot i).trafficKey = (s.slot i).trafficKey ∧ (o.slot i).context = (s.slot i).context ∧
      (o.slot i).generation = (s.slot i).generation := by
  obtain ⟨-, -, ⟨-, rfl, -⟩ | ⟨-, -, changes, -, rfl, -⟩⟩ := h
  · have hslot : (s.openedOn w p c i owner).slot i = (s.openedDue w p c i owner).slot i := rfl
    rw [hslot, openedDue_slot]
    exact ⟨rfl, rfl, rfl⟩
  · have hslot : (s.opened w p i owner).slot i = (s.slot i).opened :=
      (opened_slot ..).trans (if_pos rfl)
    obtain ⟨h1, h2, h3, -⟩ := changedAll_keyed (i := i) changes (s := s.opened w p i owner)
      (by rw [hslot]; exact Nat.succ_ne_zero _)
    rw [hslot] at h1 h2 h3
    exact ⟨h1, h2, h3⟩

/-- The keystream of the parcel that was opened. -/
theorem opens_keystream {e : Window} {q : ParcelRecord} (he : s.window w = some e)
    (hq : s.parcel w p = some q) (hd : e.direction = .outbound)
    (h : Opens s w p c i owner o events) (line offset count : Nat) :
    o.parcelKeystream w p line offset count =
      keystream (s.slot i).trafficKey (s.slot i).context.val 1 (s.slot i).generation
        (s.slot i).nextSequence line offset count := by
  have hwindows : o.windows = (s.opened w p i owner).windows := by rw [opens_frame h]
  obtain ⟨e', he', hd'⟩ : ∃ e', o.window w = some e' ∧ e'.direction = .outbound := by
    have hw : o.window w = (s.updateParcel w p fun x => { x with
        state := .filling, owner := some owner, slot := some i,
        sequence := some (s.slot i).nextSequence }).window w := by
      rw [State.window, hwindows]
      rfl
    exact ⟨_, hw.trans (window_updateParcel he _), hd⟩
  have hq' : o.parcel w p = some { q with
      state := .filling, owner := some owner, slot := some i,
      sequence := some (s.slot i).nextSequence } := by
    have hparcel : o.parcel w p = (s.opened w p i owner).parcel w p := by
      unfold State.parcel State.window
      rw [hwindows]
    rw [hparcel]
    exact parcel_updateParcel hq _
  obtain ⟨hkey, hcontext, hgeneration⟩ := opens_keyed h
  rw [State.parcelKeystream, he', hq']
  dsimp only
  rw [hkey, hcontext, hgeneration, hd']
  rfl

end Opening

end Sys2Proof.Machine
end

section
/-! PROOFS. The write that opens a parcel (R7, R23, R45). -/

namespace Sys2Proof.Machine

section OpeningWrite

variable {s : State} {r : Request} {side : Alias} {w : WindowIndex} {e : Window} {p : Nat}
  {q : ParcelRecord}

/-- The step of a request of one piece that is placed and tells events. -/
theorem arrive_onePiece_telling {b : State} {a : Nat} {x : Access} {l : List Byte} {i : Bool}
    {events : List FaultEvent} (hs : Quiet s) (hr : Ready s r) (h : OnePiece s r side w e p q)
    (hb : b.mode = .running) (hpath : b.path = s.path)
    (ht : s.takeWindowPiece side w e p q (Request.onlyPiece r) =
      ((b.handing events i).placed a x l, .waiting)) :
    EndsAs (b.waitsFor r
      [{ serial := s.path.nextSerial, address := a, access := x, keystream := l }] [.waiting])
      (s.arrive r) [] events := by
  refine arrive_waiting hs hr hb ⟨i, ?_⟩ ?_
  · rw [takeRequest_onePiece h ht]
    unfold State.handing State.placed State.withTaken State.waitsFor
    dsimp only
    rw [hpath]
    rfl
  · have hu : Unanswered b := by
      unfold Unanswered
      rw [hpath]
      exact hr.2.2.1
    exact unanswered_withTaken (s := { b with path := { b.path with
      passing := _, nextSerial := _ } }) hu rfl

/-- A write below the head line of a FREE data parcel opens it (R23). -/
theorem decisionOf_opens {c : Cut} {bytes : List (Option Byte)} (hc : c.access = .write bytes)
    (hd : e.direction = .outbound) (hrole : e.role = .data) (hq : q.state = .free)
    (hline : (c.address - e.base) % 2048 / 32 ≠ 0) : decisionOf .plain e q c = .opens := by
  unfold decisionOf decideAccess
  rw [hd, hrole, hq, hc, decide_eq_false hline]
  rfl

end OpeningWrite

/-- Settles O24. -/
theorem openingWrite : Obligations.OpeningWrite := by
  intro s r bytes w e p q i o events hs hr h hwrite hclear hbase hd hrole hq hlow hopens k line stream
  refine ⟨_, exec_upstreamRequest h.1 s, ?_⟩
  obtain ⟨x, hx⟩ := openParcel_opens hs.2 hopens
  have hframe := opens_frame hopens
  have hdecision : decisionOf .plain e q (Request.onlyPiece r) = .opens :=
    decisionOf_opens hwrite hd hrole hq (by
      show (r.offset % 16777216 - e.base) % 2048 / 32 ≠ 0
      omega)
  have hstream : (o.handing events x).pieceKeystream w e p (Request.onlyPiece r) = stream := by
    have hoffset : ((Request.onlyPiece r).address - e.base) % 2048 % 32 = r.offset % 32 := by
      show (r.offset % 16777216 - e.base) % 2048 % 32 = r.offset % 32
      omega
    have hcount : (Request.onlyPiece r).access.count = bytes.length := by
      rw [show (Request.onlyPiece r).access = _ from hwrite]
      rfl
    rw [State.pieceKeystream, hoffset, hcount]
    exact opens_keystream h.2.2.2.2.2.2.1 h.2.2.2.2.2.2.2 hd hopens _ _ _
  refine arrive_onePiece_telling (i := x) hs hr h (by rw [hframe]; exact hs.1) (by rw [hframe]) ?_
  rw [takeWindowPiece_eq hdecision, State.carryOut, hx]
  dsimp only
  rw [place_enciphered (by exact hclear), hstream]
  rw [show (Request.onlyPiece r).access = _ from hwrite]
  rfl

end Sys2Proof.Machine
end

section
/-! PROOFS. The start of a notice at the gather mark (R145 to R150). -/

namespace Sys2Proof.Machine

/-! ### An examination that starts a notice ends its step (R146) -/

section Ends

variable {u t : State} {events : List FaultEvent}

/-- A step that hands on an examination only ends as the state in which that has started a
notice does. -/
theorem finish_starts (hm : u.mode = .running) (hr : u.transit.reports = [])
    (he : u.transit.examine = true) (ht : ({ u with transit := Transit.empty } : State).examine = t)
    (hp : t.composer.phase ≠ .idle) (htm : t.mode = .running)
    (hte : t.transit.reports = events.map .event) : u.finish = t.finish := by
  have hdrain : ∀ v : State, v.transit.reports = [] → v.drainReports = v := fun v hv => by
    unfold State.drainReports
    rw [hv]
    show { v with transit := { v.transit with reports := [] } } = v
    rw [← hv]
  have hexamine : u.runExamination = t := by
    unfold State.runExamination
    rw [if_pos he, ← ht]
    refine congrArg State.examine ?_
    show { u with transit := { reports := u.transit.reports, examine := false } } = _
    rw [hr]
    rfl
  have hquiet : t.drainReports.runExamination.drainReports =
      { t.drainReports with transit := { t.drainReports.transit with examine := false } } := by
    obtain ⟨d, more, hd, hsame, -, hx, hreports⟩ := fold_reports events
      (a := { t with transit := { t.transit with reports := [] } }) (b := t)
      ⟨⟨rfl, rfl, rfl, rfl⟩, rfl⟩ (noNotice_phase hp _)
    have hfold : t.drainReports = d := by
      unfold State.drainReports
      rw [hte]
      exact hd
    have hnone : d.noticeCalled = false :=
      (noticeCalled_congr hsame).trans (noNotice_last (noNotice_phase hp _))
    rw [hfold, runExamination_quiet hnone]
    exact hdrain { d with transit := { d.transit with examine := false } } hreports
  unfold State.finish State.settle
  rw [if_pos hm, if_pos htm, hdrain u hr, hexamine, hquiet]

end Ends

/-! ### The records a notice carries (R149) -/

section Records

/-- The records at NO once those carried are IN_FLIGHT. -/
theorem filter_marked (queue : List FaultRecord) (n : Nat) :
    ((marked queue (((queue.filter fun r => decide (r.office = .no)).take n).map
        FaultRecord.ordinal) .inFlight).filter fun r => decide (r.office = .no)) =
      (((queue.filter fun r => decide (r.office = .no)).drop n).filter fun r =>
        decide (r.ordinal ∉ ((queue.filter fun r => decide (r.office = .no)).take n).map
          FaultRecord.ordinal)).filter fun r => decide (r.office = .no) := by
  set waiting := queue.filter fun r => decide (r.office = .no) with hwaiting
  set ordinals := (waiting.take n).map FaultRecord.ordinal with hordinals
  have hmarked : ∀ l : List FaultRecord,
      ((marked l ordinals .inFlight).filter fun r => decide (r.office = .no)) =
        (l.filter fun r => decide (r.office = .no)).filter fun r => decide (r.ordinal ∉ ordinals) := by
    intro l
    unfold marked
    induction l with
    | nil => rfl
    | cons r l ih =>
      rw [List.map_cons]
      by_cases hr : r.ordinal ∈ ordinals
      · rw [if_pos hr, List.filter_cons_of_neg (by simp), ih, List.filter_filter,
          List.filter_filter, List.filter_cons_of_neg (by simp [hr])]
      · rw [if_neg hr]
        by_cases ho : r.office = .no
        · rw [List.filter_cons_of_pos (by simp [ho]), List.filter_cons_of_pos (by simp [ho]),
            List.filter_cons_of_pos (by simp [hr]), ih]
        · rw [List.filter_cons_of_neg (by simp [ho]), List.filter_cons_of_neg (by simp [ho]), ih]
  have htaken : (waiting.take n).filter (fun r => decide (r.ordinal ∉ ordinals)) = [] := by
    rw [List.filter_eq_nil_iff]
    intro r hr
    simp only [decide_eq_true_eq, not_not]
    exact List.mem_map_of_mem hr
  have hall : ∀ r ∈ (waiting.drop n).filter (fun r => decide (r.ordinal ∉ ordinals)),
      decide (r.office = .no) = true := fun r hr => by
    have hmem := List.mem_of_mem_drop (List.mem_filter.mp hr).1
    rw [hwaiting] at hmem
    exact (List.mem_filter.mp hmem).2
  rw [hmarked, ← hwaiting, List.filter_eq_self.mpr hall]
  conv_lhs => rw [← List.take_append_drop n waiting]
  rw [List.filter_append, htaken, List.nil_append]

theorem gatherBy_congr {s : State} {l l' : List FaultRecord}
    (h : (l.filter fun r => decide (r.office = .no)) = l'.filter fun r => decide (r.office = .no)) :
    s.gatherBy l = s.gatherBy l' := by
  unfold State.gatherBy
  rw [h]

end Records

/-! ### The start conditions, and what starts (R147 to R150) -/

section Starts

variable {s o : State} {w : WindowIndex} {e : Window} {q : ParcelRecord} {c : Ctx} {i : SlotId}
  {events : List FaultEvent} {p : Nat} {owner : Owner}

/-- An open does not depend on the composer. -/
theorem opens_composer (h : Opens s w p c i owner o events) (x : Composer) :
    Opens { s with composer := x } w p c i owner { o with composer := x } events := by
  have hopened : State.opened { s with composer := x } w p i owner =
      { s.opened w p i owner with composer := x } := by
    have hwindows : (State.opened { s with composer := x } w p i owner).windows =
        (s.opened w p i owner).windows := by
      show (State.updateParcel { s with composer := x } w p _).windows = _
      rw [updateParcel_from (s := s) (t := { s with composer := x }) rfl]
      rfl
    rw [opened_frame, hwindows]
    conv_rhs => rw [opened_frame]
    rfl
  obtain ⟨ha, hn, ⟨hstays, rfl, rfl⟩ | ⟨hb, h1, changes, hc, rfl, rfl⟩⟩ := h
  · refine ⟨ha, hn, .inl ⟨hstays, ?_, rfl⟩⟩
    unfold State.openedOn
    rw [hopened]
    rfl
  · refine ⟨ha, hn, .inr ⟨hb, h1, changes, cascades_sameKeys ⟨rfl, rfl⟩ hc, ?_, ?_⟩⟩
    · rw [hopened, (changedAll_sameKeys changes (s := s.opened w p i owner)
        (u := { s.opened w p i owner with composer := x }) ⟨rfl, rfl⟩).1, changedAll_frame]
    · rw [hopened, (changedAll_sameKeys changes (s := s.opened w p i owner)
        (u := { s.opened w p i owner with composer := x }) ⟨rfl, rfl⟩).2]
      rfl

theorem chooseContext_chosen (hu : (s.usableSlot c).isSome = true) (hl : (s.link c).silent = false)
    (hc : c = e.context ∨
      (s.usableSlot e.context = none ∨ (s.link e.context).silent = true) ∧
        (s.context e.context).settings.fallback = some c) : s.chooseContext e.context = some c := by
  have hcarries : s.carriesNotice c = true := by
    unfold State.carriesNotice
    rw [hu, show (s.time.links[c]).silent = false from hl]
    rfl
  unfold State.chooseContext
  rcases hc with rfl | ⟨hnot, hfallback⟩
  · rw [if_pos hcarries]
  · have hwindow : s.carriesNotice e.context = false := by
      unfold State.carriesNotice
      rcases hnot with hnone | hsilent
      · rw [hnone]
        rfl
      · rw [show (s.time.links[e.context]).silent = true from hsilent]
        exact Bool.and_false _
    rw [hwindow, if_neg (by decide), hfallback]
    dsimp only
    rw [if_pos hcarries]

theorem examine_starts (hp : s.composer.phase = .idle) (hw : s.noticeWindow = some w)
    (he : s.window w = some e) (hretry : s.retryClear = true) (hcall : s.recordsCall = true)
    (hfree : s.ringParcelFree w = true) (hc : s.chooseContext e.context = some c) :
    s.examine = s.startNotice w e c := by
  unfold State.examine
  rw [if_neg (by simp [hp]), hw]
  dsimp only
  rw [he]
  dsimp only
  rw [hretry, hcall, hfree, hc]
  rfl

/-- The image writes of a notice that carries some records. -/
def State.carriedWrites (s : State) (e : Window) (p : Nat) (i : SlotId)
    (carried : List FaultRecord) : List InternalRequest :=
  carried.zipIdx.map fun x =>
    { purpose := .noticeImage, ignored := false, address := e.base + 2048 * p + 32 * (x.2 + 1),
      access := wholeLine (applyKeystream (s.imageOf x.1)
        (keystream (s.slot i).trafficKey (s.slot i).context.val 1 (s.slot i).generation
          (s.slot i).nextSequence (x.2 + 1) 0 32)),
      orderPoint := s.path.nextSerial }

/-- o once the notice that opened its parcel carries its records. -/
def State.carrying (s o : State) (p : Nat) (c : Ctx) (carried : List FaultRecord) : State :=
  { o with
    fault := { s.fault with
      queue := marked s.fault.queue (carried.map FaultRecord.ordinal) .inFlight },
    composer := { s.composer with
      phase := .writing,
      gather := s.gatherBy (marked s.fault.queue (carried.map FaultRecord.ordinal) .inFlight),
      notice := some { parcel := p, context := c, ordinals := carried.map FaultRecord.ordinal,
                       writesLeft := carried.length } } }

/-- The gather mark's new value depends on the gather time. -/
theorem gatherBy_composer {t : State} (h : t.composer = s.composer) (l : List FaultRecord) :
    s.gatherBy l = t.gatherBy l := by
  unfold State.gatherBy
  rw [h]

theorem startNotice_opens {carried : List FaultRecord} (hs : Settled s) (he : s.window w = some e)
    (hq : s.parcel w s.composer.ring = some q) (hd : e.direction = .outbound)
    (hcarried : carried = (s.fault.queue.filter fun r => decide (r.office = .no)).take 4)
    (h : Opens s w s.composer.ring c i .composer o events) :
    ∃ x, s.startNotice w e c =
      ((s.carrying o s.composer.ring c carried).wantAll
        (s.carriedWrites e s.composer.ring i carried)).handing events x := by
  obtain ⟨x, hx⟩ := openParcel_opens hs h
  have hframe := opens_frame h
  have hstream := opens_keystream he hq hd h
  have hfault : o.fault = s.fault := by rw [hframe]
  have hcomposer : o.composer = s.composer := by rw [hframe]
  have hpath : o.path = s.path := by rw [hframe]
  have himage : ∀ r, o.imageOf r = s.imageOf r := fun r => by
    unfold State.imageOf State.imageDetailA State.linkedCounter State.counter
    rw [hfault]
  have hrecords : (o.handing events x).recordsAtNo.take 4 = carried := by
    rw [hcarried, ← hfault]
    rfl
  have hwrites : ((carried.map (o.handing events x).imageOf).zipIdx.map fun ik =>
      (o.handing events x).imageWrite w e s.composer.ring ik.1 ik.2) =
      s.carriedWrites e s.composer.ring i carried := by
    rw [List.zipIdx_map, List.map_map]
    refine List.map_congr_left fun y _ => ?_
    show State.imageWrite o w e s.composer.ring (o.imageOf y.1) y.2 = _
    rw [State.imageWrite, hstream, himage, hpath]
    rfl
  refine ⟨x, ?_⟩
  unfold State.startNotice
  dsimp only
  rw [hx]
  dsimp only
  rw [hrecords, hwrites, setGather_gatherBy, markOffice_marked, List.length_map, State.carrying,
    ← hfault, ← hcomposer, gatherBy_composer (s := s) hcomposer]
  rfl

end Starts

/-- Settles O39. -/
theorem noticeStarts : Obligations.NoticeStarts := by
  intro s v w e q c i carried o events hs hphase hgather hreached hretry hw he hd hq hfree hcarried
    hsome hchosen hsilent hopens k left
  set gather : Mark := { value := some v, latch := true } with hg
  set u : State := { s with composer := { s.composer with gather := gather } } with hu
  have hreport : s.actOnReport .gather = u.noteExamination := by
    show s.gatherReached = _
    unfold State.gatherReached
    rw [hgather]
  have huopens : Opens u w u.composer.ring c i .composer
      { o with composer := { s.composer with gather := gather } } events :=
    opens_composer hopens _
  have hcall : u.recordsCall = true := by
    have hwaiting : u.recordsAtNo ≠ [] := fun h => hsome (by
      rw [hcarried]
      exact (congrArg (List.take 4) h).trans rfl)
    unfold State.recordsCall
    dsimp only
    rw [show u.composer.gather.latch = true from rfl, Bool.or_true, Bool.and_true]
    simpa using hwaiting
  have hclear : u.retryClear = true := by
    unfold State.retryClear
    rcases hretry with h | h
    · rw [show u.composer.retry.value = none from h]
      rfl
    · rw [show u.composer.retry.latch = true from h]
      exact Bool.or_true _
  have hring : u.ringParcelFree w = true := by
    unfold State.ringParcelFree
    rw [show u.parcel w u.composer.ring = some q from hq]
    exact decide_eq_true hfree
  have husable : (u.usableSlot c).isSome = true := by rw [opens_usable huopens]; rfl
  obtain ⟨x, hx⟩ := startNotice_opens (s := u) (carried := carried) hs.2 he hq hd hcarried huopens
  have hexamine : u.examine = _ :=
    (examine_starts (s := u) hphase hw he hclear hcall hring
      (chooseContext_chosen (s := u) husable hsilent hchosen)).trans hx
  have hnoted : ({ u.noteExamination with transit := Transit.empty } : State) = u := by
    show { u with transit := Transit.empty } = u
    rw [← show u.transit = Transit.empty from hs.2]
  have hmode : o.mode = .running := by
    rw [opens_frame hopens]
    exact hs.1
  have hgathered : u.gatherBy (marked s.fault.queue (carried.map FaultRecord.ordinal) .inFlight) =
      s.gatherBy (left.filter fun r => decide (r.ordinal ∉ carried.map FaultRecord.ordinal)) := by
    refine Eq.trans rfl (gatherBy_congr (s := s) ?_)
    rw [hcarried]
    exact filter_marked s.fault.queue 4
  have hfinish : u.noteExamination.finish = _ :=
    finish_starts (u := u.noteExamination) (events := events) hs.1
      (congrArg Transit.reports hs.2) rfl ((congrArg State.examine hnoted).trans hexamine)
      (show ComposerPhase.writing ≠ .idle by decide) hmode rfl
  refine ⟨_, rfl, ?_⟩
  rw [deliver_due (m := .gather) hs.1 (watch_due hgather hreached), hreport, hfinish,
    State.carrying]
  rw [show u.fault = s.fault from rfl, hgathered]
  exact finish_wanting hmode

end Sys2Proof.Machine
end
